-- ==== Sys2Proof/Word.lean ====
section
/-! DEFINITION. The word types of the machine (00_scope.md R10). -/

namespace Sys2Proof

/-- A byte: 8 bits, unsigned, bit 7 the most significant (R10). -/
abbrev Byte := BitVec 8

/-- The width of the CRC registers (10_state.md R30). -/
abbrev Crc16 := BitVec 16

/-- The two baud formats of the cassette (R13). -/
inductive TapeSpeed where
  | low
  | high
deriving DecidableEq, Repr

end Sys2Proof
end

