-- ==== Sys2Proof/Config.lean ====
section
/-! DEFINITION. Implementation parameters: the constants of 00_scope.md R6 and R7, the open parameters of R8 with the
spec's defaults, and the free value the spec calls a draw. -/

namespace Sys2Proof.Config

/-- The open parameters of R8, "each ... a named argument of the model". A State carries them and no step writes them. -/
structure Params where
  /-- `TPS`, ticks per second (D1). -/
  tps : Nat
  /-- `MAX_LATENESS` in ticks (D3). -/
  maxLateness : Nat
  /-- `DELAY_FLAG_US`, the wait of the `delay` flag in microseconds (D16). -/
  delayFlagUs : Nat
  /-- `LO_PULSE_POS` in ticks (D33). -/
  loPulsePos : Nat
  /-- `LO_PULSE_NEG` in ticks (D33). -/
  loPulseNeg : Nat
  /-- `CASSETTE_PORT` (D31). -/
  cassettePort : BitVec 8
  /-- `FDC_ENABLED_AT_RESET` (D30). -/
  fdcEnabledAtReset : Bool
  /-- `INITIAL_TAPE_SPEED` (D39). -/
  initialTapeSpeed : TapeSpeed
deriving DecidableEq, Repr

/-! ## Constants whose value the source states (R6) -/

def blankTapeLength : Nat := 0x800
def maxTapeLength : Nat := 0x12000
def maxTracks : Nat := 80
def motorOffDelayUs : Nat := 2000000
def motorOnDelayUs : Nat := 10
def nmiDelayUs : Nat := 30
def standardDelayUs : Nat := 30000

/-- `HEAD_LOAD_DELAY_US`, the head-load delay (R6); the default of `DELAY_FLAG_US` (R8). -/
def headLoadDelayUs : Nat := 50000

/-- `DISK_RPM` 300: five revolutions per second (R6). -/
def revsPerSecond : Nat := 5

/-! ## The defaults of the open parameters (R8) -/

/-- The defaults of R8; the wait of the `delay` flag is there `HEAD_LOAD_DELAY_US`. -/
def defaults : Params :=
  { tps := 2027520000, maxLateness := 0, delayFlagUs := headLoadDelayUs, loPulsePos := 196000, loPulseNeg := 196000
    cassettePort := 0xFF#8, fdcEnabledAtReset := true, initialTapeSpeed := .high }

/-! ## Constants of the component design (R7) -/

def angleDivisions : Nat := 1000000
def indexPulseEnd : Nat := 10000
def indexStartOffset : Nat := 10
def pollMarginTicks : Nat := 10000
def seekErrorRevs : Nat := 5
def trackLenSd : Nat := 6250
def trackLenDd : Nat := 12500
def damSearchSd : Nat := 30
def damSearchDd : Nat := 43
def headerRun : Nat := 21
def evidenceMax : Int := 16
def evidenceLock : Int := 8
def hiOne : Nat := 378000
def hiZero : Nat := 771000
def loPostClockOne : Nat := 1632000
def loPostDataOne : Nat := 1632000
def loPostDataZero : Nat := 3669000
def hiThreshold : Nat := 1200000
def loThreshold : Nat := 3000000
def crcReset : BitVec 16 := 0xFFFF#16
/-- `CRC_RESET_A1_A1_A1` (47_crc.md R424). -/
def crcResetA1A1A1 : BitVec 16 := 0xCDB4#16

/-- Ticks are 64-bit and never wrap (R10): the clock stays below this bound. -/
def tickLimit : Nat := 2 ^ 64

/-- The draw of 20_memory.md R67: the byte read under the head when no track is bound, drawn afresh at every read.
FREE VALUE: it has no body, so nothing constrains it; the argument counts the draws (assumption log 6). -/
opaque freeByte : Nat → BitVec 8

end Sys2Proof.Config
end

