-- ==== Sys2Proof/Input.lean ====
section
/-! DEFINITION. What enters and leaves the block: the media and tape arrays, the steps of the CPU and of the environment
(00_scope.md R12), and the events the block emits (40_clock_scheduler.md R156). -/

namespace Sys2Proof.Machine

/-- A byte array of `size` bytes, held as its cells in one canonical form (see `Memory.wf`): the tape buffer
(10_state.md R40) or the data of a track (20_memory.md R60). -/
structure Memory where
  size : Nat
  cells : List Host.Cell
deriving DecidableEq, Repr

/-- One track of a floppy image: its bytes and its IDAM bitmap, the latter as the rising list of the positions whose bit
is set (R60). -/
structure Track where
  data : Memory
  idam : List Nat
deriving DecidableEq, Repr

/-- A track of an image with the physical track number and the side it stands at (10_state.md R36). -/
structure TrackEntry where
  cylinder : Nat
  sideOne : Bool
  track : Track
deriving DecidableEq, Repr

/-- A floppy image as the facade holds it (20_memory.md R66); `changed` is the facade's mark of R68. -/
structure FloppyImage where
  tracks : List TrackEntry
  changed : Bool
deriving DecidableEq, Repr

/-- The four drives (10_state.md R29). -/
inductive DriveId where
  | d0 | d1 | d2 | d3
deriving DecidableEq, Repr

/-- The four edge latches (10_state.md R23). -/
inductive Latch where
  | cassetteRisingEdge | cassetteFallingEdge | fdcNmi | fdcMotorOffNmi
deriving DecidableEq, Repr

/-- One step of the CPU, of the scheduler or of the environment (R12). -/
inductive Input where
  /-- `PortOut(p, v)` of the CPU (20_memory.md R61). -/
  | portOut (port value : Byte)
  /-- `PortIn(p)` of the CPU (R61). -/
  | portIn (port : Byte)
  /-- `Fire`: the scheduler runs one due callback (40_clock_scheduler.md R141). -/
  | fire
  /-- `Advance(d)` of the tick clock (R131). -/
  | advance (d : Nat)
  /-- `SetMotorSignal(b)` (41_cassette.md R173). -/
  | setMotorSignal (on : Bool)
  /-- `Play` (R177). -/
  | play
  /-- `Record` (R178). -/
  | record
  /-- `Stop` (R179). -/
  | stop
  /-- `Rewind` (R174). -/
  | rewind
  /-- `InsertTape(bytes)` (R188). -/
  | insertTape (bytes : List Byte)
  /-- `Unlatch(l)` by the interrupt manager (60_exceptions.md R452). -/
  | unlatch (l : Latch)
  /-- A media change on a drive: the disk (or none) and the write-protect of the drive (R12, R29). -/
  | mediaChange (drive : DriveId) (floppy : Option FloppyImage) (writeProtected : Bool)
  /-- Platform reset (70_reset_and_hazards.md R480). -/
  | platformReset
deriving DecidableEq, Repr

/-- What leaves the block in a step: the answer of a port read, the events of R156, the byte for the interrupt manager
(R65), and the ghost event of 60_exceptions.md R447. -/
inductive Output where
  | busRead (port value : Byte)
  | driveMotorRunning (on : Bool)
  | trackStep
  | cpuWait
  | interruptEnable (port value : Byte)
  | syncFault
deriving DecidableEq, Repr

end Sys2Proof.Machine
end

