-- ==== Sys2Proof/Syntax.lean ====
section
/-! DEFINITION. The commands of the FDC: one constructor per row of spec/opcode_table.json. A constructor holds every bit
of the command byte that its row leaves open, the ignored ones too, because the byte is stored (30_encoding.md R90 to R97). -/

namespace Sys2Proof

/-- One command byte written to port 0xF0. Fields stand from the most significant bit down. -/
inductive Instr where
  /-- RESTORE `0000 h V r r` (R281). -/
  | restore (h v : Bool) (r : BitVec 2)
  /-- SEEK `0001 h V r r` (R282). -/
  | seek (h v : Bool) (r : BitVec 2)
  /-- STEP `001 u h V r r` (R294). -/
  | step (u h v : Bool) (r : BitVec 2)
  /-- STEPIN `010 u h V r r` (R295). -/
  | stepIn (u h v : Bool) (r : BitVec 2)
  /-- STEPOUT `011 u h V r r` (R296). -/
  | stepOut (u h v : Bool) (r : BitVec 2)
  /-- RDSEC `100 m S E C x` (R345). -/
  | rdsec (m sd e c x : Bool)
  /-- WRSEC `101 m S E C a0` (R346). -/
  | wrsec (m sd e c a0 : Bool)
  /-- RDADDR `1100 x E x x` (R364). -/
  | rdaddr (x3 e : Bool) (x10 : BitVec 2)
  /-- RESET `11010000` (R402). -/
  | reset
  /-- FORCEINT, row `11010001` (R404). -/
  | forceintD1
  /-- FORCEINT, row `1101001x` (R404). -/
  | forceintD2 (x : Bool)
  /-- FORCEINT, row `110101xx` (R404). -/
  | forceintD4 (x : BitVec 2)
  /-- FORCEINTIMM `11011000` (R403). -/
  | forceintimm
  /-- FORCEINT, row `11011001` (R404). -/
  | forceintD9
  /-- FORCEINT, row `1101101x` (R404). -/
  | forceintDA (x : Bool)
  /-- FORCEINT, row `110111xx` (R404). -/
  | forceintDC (x : BitVec 2)
  /-- RDTRK `1110 x E x x` (R373). -/
  | rdtrk (x3 e : Bool) (x10 : BitVec 2)
  /-- WRTRK `1111 x E x x` (R387). -/
  | wrtrk (x3 e : Bool) (x10 : BitVec 2)
deriving DecidableEq, Repr

end Sys2Proof
end

