-- ==== Sys2Proof/WellFormed.lean ====
section
/-! DEFINITION. Well-formedness of what enters the machine. A term of `Instr` is well formed by its type: its fields are
exactly the open bits of its row. What can be ill formed is a memory, an image, an input or a set of parameters. -/

namespace Sys2Proof

/-- Every instruction is well formed: each row's open bits are held in fields of exactly their width (R97: no field is
scaled, and every value of every field is encodable). -/
def Instr.wellFormed (_ : Instr) : Bool := true

namespace Config

/-- The parameters satisfy what the rules ask of them: at least one tick per revolution, the pulse widths of 41_cassette.md
R182, and a cassette port that is no port of the FDC or of the interrupt manager (20_memory.md R62). -/
def Params.wf (p : Params) : Bool :=
  decide (5 ≤ p.tps) && decide (291000 ≤ p.loPulsePos + p.loPulseNeg) && decide (p.loPulsePos + p.loPulseNeg ≤ 649000) &&
    !([0xE4#8, 0xE5#8, 0xE6#8, 0xE7#8, 0xF0#8, 0xF1#8, 0xF2#8, 0xF3#8, 0xF4#8].contains p.cassettePort)

end Config

namespace Machine

/-- What a cell that is not listed reads as: 0x00, the blank tape of 10_state.md R40 (assumption log 8). -/
def unlistedByte : Byte := 0x00#8

/-- The canonical form of a list of cells: addresses strictly rising from `lo`, all below `size`, none holding what an
unlisted cell reads as. -/
def cellsWf (size : Nat) : Nat → List Host.Cell → Bool
  | _, [] => true
  | lo, (a, v) :: rest => decide (lo ≤ a) && decide (a < size) && (v != unlistedByte) && cellsWf size (a + 1) rest

/-- The memory is in its one canonical form. -/
def Memory.wf (m : Memory) : Bool := cellsWf m.size 0 m.cells

/-- A bitmap's positions are strictly rising from `lo` and below `size`. -/
def positionsWf (size : Nat) : Nat → List Nat → Bool
  | _, [] => true
  | lo, a :: rest => decide (lo ≤ a) && decide (a < size) && positionsWf size (a + 1) rest

/-- A track: at least two bytes (40_clock_scheduler.md R148), data and bitmap canonical. -/
def Track.wf (t : Track) : Bool :=
  decide (2 ≤ t.data.size) && t.data.wf && positionsWf t.data.size 0 t.idam

/-- An image lists each (physical track, side) at most once, and every track of it is well formed (20_memory.md R60). -/
def trackEntriesWf : List TrackEntry → Bool
  | [] => true
  | e :: rest => e.track.wf && rest.all (fun f => !(f.cylinder == e.cylinder && f.sideOne == e.sideOne)) && trackEntriesWf rest

def FloppyImage.wf (f : FloppyImage) : Bool := trackEntriesWf f.tracks

/-- A drive's disk is absent or a well-formed image. -/
def floppyWf : Option FloppyImage → Bool
  | none => true
  | some f => f.wf

/-- An input is well formed: an `Advance` of at least one tick (40_clock_scheduler.md R131), a tape of 1 to
`MAX_TAPE_LENGTH` bytes (41_cassette.md R188), a well-formed image. -/
def Input.wf : Input → Bool
  | .advance d => decide (1 ≤ d)
  | .insertTape bytes => decide (1 ≤ bytes.length) && decide (bytes.length ≤ Config.maxTapeLength)
  | .mediaChange _ floppy _ => floppyWf floppy
  | .portOut _ _ | .portIn _ | .fire | .setMotorSignal _ | .play | .record | .stop | .rewind | .unlatch _
  | .platformReset => true

end Machine

end Sys2Proof
end

