-- ==== Sys2Proof/Decode.lean ====
section
/-! DEFINITION. The bit and byte helpers, decoding and encoding of command bytes (30_encoding.md R90 to R97, spec/opcode_table.json). -/

namespace Sys2Proof

/-! ## Bits and bytes -/

/-- Bit `i` of a byte, written `v[i]` in the spec (R10). -/
def bitAt (v : Byte) (i : Nat) : Bool := v.getLsbD i

/-- The byte with bit `i` set to `b` and every other bit of `v` kept. -/
def setBit (v : Byte) (i : Nat) (b : Bool) : Byte :=
  if b then v ||| (1#8 <<< i) else v &&& ~~~(1#8 <<< i)

/-- The byte whose bits 7 down to 0 are the arguments in that order. -/
def byteOfBits (b7 b6 b5 b4 b3 b2 b1 b0 : Bool) : Byte :=
  BitVec.ofBool b7 ++ BitVec.ofBool b6 ++ BitVec.ofBool b5 ++ BitVec.ofBool b4 ++
    BitVec.ofBool b3 ++ BitVec.ofBool b2 ++ BitVec.ofBool b1 ++ BitVec.ofBool b0

/-- `(hi << 8) | lo`: a 16-bit value from two bytes (R10). -/
def word16 (hi lo : Byte) : Crc16 := hi ++ lo

/-! ## Decoding -/

/-- Why a list of bytes is no command. -/
inductive DecodeError where
  /-- No byte is there. -/
  | noByte
  /-- The byte matches no row of the opcode table; R96 says that there is no such byte. -/
  | noRow (b : Byte)
deriving DecidableEq, Repr

/-- A byte matches a row of the opcode table: its bits under the row's mask are the row's pattern. -/
def matchesRow (mask pattern b : Byte) : Bool := b &&& mask == pattern

/-- The two lowest bits of a command byte. -/
def lowTwo (b : Byte) : BitVec 2 := b.extractLsb' 0 2

/-- `DecodeCommand` of R96, row by row of the opcode table with its masks and patterns. -/
def decodeByte (b : Byte) : Option Instr :=
  if matchesRow 0xF0#8 0x00#8 b then some (.restore (bitAt b 3) (bitAt b 2) (lowTwo b))
  else if matchesRow 0xF0#8 0x10#8 b then some (.seek (bitAt b 3) (bitAt b 2) (lowTwo b))
  else if matchesRow 0xE0#8 0x20#8 b then some (.step (bitAt b 4) (bitAt b 3) (bitAt b 2) (lowTwo b))
  else if matchesRow 0xE0#8 0x40#8 b then some (.stepIn (bitAt b 4) (bitAt b 3) (bitAt b 2) (lowTwo b))
  else if matchesRow 0xE0#8 0x60#8 b then some (.stepOut (bitAt b 4) (bitAt b 3) (bitAt b 2) (lowTwo b))
  else if matchesRow 0xE0#8 0x80#8 b then
    some (.rdsec (bitAt b 4) (bitAt b 3) (bitAt b 2) (bitAt b 1) (bitAt b 0))
  else if matchesRow 0xE0#8 0xA0#8 b then
    some (.wrsec (bitAt b 4) (bitAt b 3) (bitAt b 2) (bitAt b 1) (bitAt b 0))
  else if matchesRow 0xF0#8 0xC0#8 b then some (.rdaddr (bitAt b 3) (bitAt b 2) (lowTwo b))
  else if matchesRow 0xFF#8 0xD0#8 b then some .reset
  else if matchesRow 0xFF#8 0xD1#8 b then some .forceintD1
  else if matchesRow 0xFE#8 0xD2#8 b then some (.forceintD2 (bitAt b 0))
  else if matchesRow 0xFC#8 0xD4#8 b then some (.forceintD4 (lowTwo b))
  else if matchesRow 0xFF#8 0xD8#8 b then some .forceintimm
  else if matchesRow 0xFF#8 0xD9#8 b then some .forceintD9
  else if matchesRow 0xFE#8 0xDA#8 b then some (.forceintDA (bitAt b 0))
  else if matchesRow 0xFC#8 0xDC#8 b then some (.forceintDC (lowTwo b))
  else if matchesRow 0xF0#8 0xE0#8 b then some (.rdtrk (bitAt b 3) (bitAt b 2) (lowTwo b))
  else if matchesRow 0xF0#8 0xF0#8 b then some (.wrtrk (bitAt b 3) (bitAt b 2) (lowTwo b))
  else none

/-- Reads one command from the front of a list of bytes: every command is exactly one byte (R90). -/
def decode : List Byte → Except DecodeError (Instr × List Byte)
  | [] => .error .noByte
  | b :: rest =>
    match decodeByte b with
    | some i => .ok (i, rest)
    | none => .error (.noRow b)

/-- The command byte of an instruction, field by field from the formats of R91 to R95. -/
def encodeByte : Instr → Byte
  | .restore h v r => 0b0000#4 ++ BitVec.ofBool h ++ BitVec.ofBool v ++ r
  | .seek h v r => 0b0001#4 ++ BitVec.ofBool h ++ BitVec.ofBool v ++ r
  | .step u h v r => 0b001#3 ++ BitVec.ofBool u ++ BitVec.ofBool h ++ BitVec.ofBool v ++ r
  | .stepIn u h v r => 0b010#3 ++ BitVec.ofBool u ++ BitVec.ofBool h ++ BitVec.ofBool v ++ r
  | .stepOut u h v r => 0b011#3 ++ BitVec.ofBool u ++ BitVec.ofBool h ++ BitVec.ofBool v ++ r
  | .rdsec m sd e c x =>
    0b100#3 ++ BitVec.ofBool m ++ BitVec.ofBool sd ++ BitVec.ofBool e ++ BitVec.ofBool c ++ BitVec.ofBool x
  | .wrsec m sd e c a0 =>
    0b101#3 ++ BitVec.ofBool m ++ BitVec.ofBool sd ++ BitVec.ofBool e ++ BitVec.ofBool c ++ BitVec.ofBool a0
  | .rdaddr x3 e x10 => 0b1100#4 ++ BitVec.ofBool x3 ++ BitVec.ofBool e ++ x10
  | .reset => 0b11010000#8
  | .forceintD1 => 0b11010001#8
  | .forceintD2 x => 0b1101001#7 ++ BitVec.ofBool x
  | .forceintD4 x => 0b110101#6 ++ x
  | .forceintimm => 0b11011000#8
  | .forceintD9 => 0b11011001#8
  | .forceintDA x => 0b1101101#7 ++ BitVec.ofBool x
  | .forceintDC x => 0b110111#6 ++ x
  | .rdtrk x3 e x10 => 0b1110#4 ++ BitVec.ofBool x3 ++ BitVec.ofBool e ++ x10
  | .wrtrk x3 e x10 => 0b1111#4 ++ BitVec.ofBool x3 ++ BitVec.ofBool e ++ x10

/-- The bytes of an instruction. -/
def encode (i : Instr) : List Byte := [encodeByte i]

/-- The bytes of a table word: `nbits` bits of `w`, the bits above them zero, up to the one byte of the longest command. -/
def tableBytes (nbits w : Nat) : List Byte := [BitVec.ofNat 8 (w % 2 ^ nbits)]

/-- The instruction the decoder reads from the bits `w` of a table row. -/
def decodeTableWord (nbits w : Nat) : Option Instr :=
  match decode (tableBytes nbits w) with
  | .ok (i, _) => some i
  | .error _ => none

end Sys2Proof
end

