-- ==== Sys2Proof/Machine/State.lean ====
section
/-! DEFINITION. The architectural state of the block as plain data (10_state.md), the reasons a step can stop, and the
state after reset (R50). -/

namespace Sys2Proof.Machine

/-! ## Names the registers hold -/

/-- A `PulseReq`'s basis (R22). -/
inductive Basis where
  | ticks | microseconds
deriving DecidableEq, Repr

/-- The closed set of callbacks (R38). -/
inductive Callback where
  | fdcAdvance | poll | motorOnCallback | motorOffCallback | cassetteReadCallback
deriving DecidableEq, Repr

/-- The four requests the block owns (R22). -/
inductive RequestId where
  | command | motorOn | motorOff | read
deriving DecidableEq, Repr

/-- `command` (R31): one value `step` for all three Step sub-commands (30_encoding.md R96). -/
inductive Command where
  | reset | restore | seek | step | readSector | writeSector | readAddress | readTrack | writeTrack
  | forceInterrupt | forceInterruptImmediate
deriving DecidableEq, Repr

/-- `op_status` (R31), and `SeekingIndexHole`. -/
inductive OpStatus where
  | prepare | delay | step | checkVerify | seekingIDAM | readingAddressData | verifyTrack | seekingDAM | readingData
  | readCRCHigh | readCRCLow | nmi | opDone | drqCheck | writeFiller | writeSync | writeDAM | writingData
  | writeCRCHigh | writeCRCLow | writeTrailer | seekingIndexHole
deriving DecidableEq, Repr

/-- The three polarities of the cassette signal (41_cassette.md R170). -/
inductive Polarity where
  | positive | negative | zero
deriving DecidableEq, Repr

/-- The phases of a read waveform (R44, 41_cassette.md R182). -/
inductive Phase where
  | start | hiPos | hiNeg | loClkPos | loClkNeg | loPostClk | loDatPos | loDatNeg | loPostDat
deriving DecidableEq, Repr

/-! ## Records -/

/-- A pulse request (R22). `trigger` and `delay` are u64 tick counts that no rule lets wrap (00_scope.md R10). -/
structure PulseReq where
  active : Bool
  trigger : Nat
  seq : Nat
  basis : Basis
  delay : Nat
  callback : Callback
deriving DecidableEq, Repr

/-- The scheduler: its registration counter and the four requests (R22, R33). -/
structure Scheduler where
  nextSeq : Nat
  command : PulseReq
  motorOn : PulseReq
  motorOff : PulseReq
  read : PulseReq
deriving DecidableEq, Repr

/-- The edge latches (R23). -/
structure Latches where
  cassetteRisingEdge : Bool
  cassetteFallingEdge : Bool
  fdcNmi : Bool
  fdcMotorOffNmi : Bool
deriving DecidableEq, Repr

/-- `DriveState` (R29). -/
structure DriveState where
  /-- 0 to 80. -/
  physicalTrack : Nat
  writeProtected : Bool
  /-- Absent: the drive is unloaded. -/
  floppy : Option FloppyImage
deriving DecidableEq, Repr

/-- The four drives (R29). -/
structure Drives where
  d0 : DriveState
  d1 : DriveState
  d2 : DriveState
  d3 : DriveState
deriving DecidableEq, Repr

/-- `read_address_data[0..5]` (R30), by the names of its indices. -/
structure AddressData where
  track : Byte
  side : Byte
  sector : Byte
  size : Byte
  crcHi : Byte
  crcLo : Byte
deriving DecidableEq, Repr

/-- The FDC: registers, flags, selection, scratch and sequencer (R24 to R34). -/
structure Fdc where
  -- registers (R24)
  trackRegister : Byte
  sectorRegister : Byte
  commandRegister : Byte
  dataRegister : Byte
  -- status flags (R26)
  busy : Bool
  drq : Bool
  seekError : Bool
  crcError : Bool
  lostData : Bool
  writeProtected : Bool
  motorOn : Bool
  sectorDeleted : Bool
  doubleDensity : Bool
  lastStepDirUp : Bool
  -- decode flags (R27)
  verify : Bool
  delay : Bool
  updateRegisters : Bool
  sideSelectVerify : Bool
  sideOneExpected : Bool
  markSectorDeleted : Bool
  multipleRecords : Bool
  -- selection (R28); `none` is 0xFF
  currentDrive : Option DriveId
  sideOneSelected : Bool
  -- scratch (R30)
  readAddressData : AddressData
  readAddressIndex : Nat
  idamBytesFound : Nat
  damBytesChecked : Nat
  sectorLength : Nat
  bytesRead : Nat
  bytesToWrite : Nat
  crc : Crc16
  crcCalc : Crc16
  crcHigh : Byte
  crcLow : Byte
  -- operation state (R31)
  command : Command
  opStatus : OpStatus
  -- poll state (R32)
  isPolling : Bool
  targetDataIndex : Nat
  nextCallback : Option Callback
  indexCheckStartTick : Nat
  -- mode (R34)
  enabled : Bool
deriving DecidableEq, Repr

/-- The `Transition` record of the read path (R44). -/
structure Transition where
  phase : Phase
  bit : Bool
  phaseEnd : Nat
  before : Polarity
  after : Polarity
  lastNonZero : Polarity
  flipFlop : Bool
  clearPending : Bool
deriving DecidableEq, Repr

/-- The cassette block (R40 to R45). -/
structure Cassette where
  data : Memory
  byteCursor : Nat
  /-- 0 to 7, the bit under the cursor. -/
  bitCursor : Nat
  isBlank : Bool
  speed : TapeSpeed
  changed : Bool
  motorEngaged : Bool
  motorOnSignal : Bool
  motorOn : Bool
  recordInvoked : Bool
  lastWritePositive : Nat
  nextLastWritePositive : Nat
  lastWritePolarity : Polarity
  /-- −16 to 16. -/
  highSpeedWriteEvidence : Int
  skippedLast : Bool
  transition : Option Transition
  consecutiveFiftyFives : Nat
  consecutiveZeros : Nat
deriving DecidableEq, Repr

/-- The whole machine. `params` is the configuration, which no step writes; `draws`, `inputs` and `outputs` are the model's
own fields (assumption log 1, 2, 6, 13). -/
structure State where
  params : Config.Params
  /-- `tick_count` (R21). -/
  tickCount : Nat
  sched : Scheduler
  latches : Latches
  fdc : Fdc
  drives : Drives
  cas : Cassette
  /-- How many draws have been taken: the argument of the next free value. -/
  draws : Nat
  /-- The steps of the CPU and of the environment still to come, oldest first. -/
  inputs : List Input
  /-- What left the block in the last step, oldest first. -/
  outputs : List Output
deriving DecidableEq, Repr

/-! ## How a step can stop -/

/-- A stop of the machine itself. -/
inductive Fault where
  /-- The sequencer addressed a byte outside the bound track, which does not exist. Raised by the head check of Ops; a track
  of at least two bytes never raises it. Safe. -/
  | trackIndexOutOfRange
  /-- The tape cursor stood outside the tape, a byte that does not exist. Raised by the cassette's entry points; never with
  the invariant of 10_state.md R46. Safe. -/
  | tapeCursorOutOfRange
deriving DecidableEq, Repr

/-- An input to which the spec gives no meaning, or a step that is not enabled. -/
inductive Refusal where
  /-- Raised by an arm of `exec` that has no meaning yet. Safe. -/
  | notModelled (mnemonic : String)
  /-- A Type I, II or III command byte written while busy (42_fdc_ports_dispatch.md R230). Raised by the command write. Safe. -/
  | commandWhileBusy
  /-- A list of bytes that is no command; 30_encoding.md R96 leaves none. Raised by the port write. Safe. -/
  | undecodableCommand
  /-- Single density over a track of odd length (20_memory.md R72). Raised by a byte wait or a media access. Safe. -/
  | oddTrackLength
  /-- A pair (`command`, `op_status`) outside the dispatch table (42_fdc_ports_dispatch.md R241). Raised by `FdcAdvance`. Safe. -/
  | unreachableSequencerState
  /-- A port access that is not one of the block's (20_memory.md R62). Raised by the port operations. Safe. -/
  | portNotOfTheBlock
  /-- `Advance` past an active trigger, while a request is due, or by no tick (40_clock_scheduler.md R131, R142; U27). Raised by
  `Advance`. Safe. -/
  | advanceNotEnabled
  /-- `Advance` past the 64 bits of the clock (00_scope.md R10). Raised by `Advance`. Safe. -/
  | tickOverflow
  /-- `Fire` with no request due (R141). Raised by `Fire`. Safe. -/
  | fireNotEnabled
  /-- A deck action while the motor is engaged (41_cassette.md R174, R177, R178, R188). Raised by the deck. Safe. -/
  | deckNotEnabled
  /-- `InsertTape` of no byte or of more than the cap (41_cassette.md R188). Raised by the deck. Safe. -/
  | malformedTape
  /-- A media change to an ill-formed image. Raised by the media change. Safe. -/
  | malformedMedia
deriving DecidableEq, Repr

/-! ## Reset (R50) -/

/-- An inactive request. Its other fields are a draw in the spec and never read while inactive; the values here are the
model's (DESIGN CHOICE, assumption log 7). -/
def idleRequest (cb : Callback) : PulseReq :=
  { active := false, trigger := 0, seq := 0, basis := .ticks, delay := 0, callback := cb }

def Scheduler.reset : Scheduler :=
  { nextSeq := 0, command := idleRequest .fdcAdvance, motorOn := idleRequest .motorOnCallback
    motorOff := idleRequest .motorOffCallback, read := idleRequest .cassetteReadCallback }

def Latches.reset : Latches :=
  { cassetteRisingEdge := false, cassetteFallingEdge := false, fdcNmi := false, fdcMotorOffNmi := false }

def DriveState.reset : DriveState := { physicalTrack := 0, writeProtected := false, floppy := none }

def Drives.reset : Drives :=
  { d0 := DriveState.reset, d1 := DriveState.reset, d2 := DriveState.reset, d3 := DriveState.reset }

def AddressData.reset : AddressData :=
  { track := 0#8, side := 0#8, sector := 0#8, size := 0#8, crcHi := 0#8, crcLo := 0#8 }

def Fdc.reset (p : Config.Params) : Fdc :=
  { trackRegister := 0x00#8, sectorRegister := 0x00#8, commandRegister := 0x00#8, dataRegister := 0x00#8
    busy := false, drq := false, seekError := false, crcError := false, lostData := false, writeProtected := false
    motorOn := false, sectorDeleted := false, doubleDensity := false, lastStepDirUp := true
    verify := false, delay := false, updateRegisters := false, sideSelectVerify := false, sideOneExpected := false
    markSectorDeleted := false, multipleRecords := false
    currentDrive := none, sideOneSelected := false
    readAddressData := AddressData.reset, readAddressIndex := 0, idamBytesFound := 0, damBytesChecked := 0
    sectorLength := 0, bytesRead := 0, bytesToWrite := 0, crc := 0#16, crcCalc := 0#16, crcHigh := 0#8, crcLow := 0#8
    command := .reset, opStatus := .opDone
    isPolling := false, targetDataIndex := 0, nextCallback := none, indexCheckStartTick := 0
    enabled := p.fdcEnabledAtReset }

def Cassette.reset (p : Config.Params) : Cassette :=
  { data := { size := Config.blankTapeLength, cells := [] }, byteCursor := 0, bitCursor := 7, isBlank := true
    speed := p.initialTapeSpeed, changed := false
    motorEngaged := false, motorOnSignal := false, motorOn := false, recordInvoked := false
    lastWritePositive := 0, nextLastWritePositive := 0, lastWritePolarity := .zero, highSpeedWriteEvidence := 0
    skippedLast := false, transition := none, consecutiveFiftyFives := 0, consecutiveZeros := 0 }

/-- The reset state of a machine with the parameters `p` (R50, 70_reset_and_hazards.md R480). -/
def State.resetWith (p : Config.Params) : State :=
  { params := p, tickCount := 0, sched := Scheduler.reset, latches := Latches.reset, fdc := Fdc.reset p
    drives := Drives.reset, cas := Cassette.reset p, draws := 0, inputs := [], outputs := [] }

/-- The machine right after reset, with the parameters at the defaults of 00_scope.md R8. -/
def State.reset : State := State.resetWith Config.defaults

end Sys2Proof.Machine
end

