-- ==== Sys2Proof/Machine/Crc.lean ====
section
/-! DEFINITION. The CRC-16 generator (47_crc.md). -/

namespace Sys2Proof.Machine

/-- One shift of the CRC register (R421). -/
def crcShift (c : Crc16) : Crc16 := if c.getLsbD 15 then (c <<< 1) ^^^ 0x1021#16 else c <<< 1

/-- `n` shifts. -/
def crcShifts : Nat → Crc16 → Crc16
  | 0, c => c
  | n + 1, c => crcShifts n (crcShift c)

/-- `CrcByte(c, b)` (R421). -/
def crcByte (c : Crc16) (b : Byte) : Crc16 := crcShifts 8 (c ^^^ (b.setWidth 16 <<< 8))

/-- `CrcBytes`: `CrcByte` folded from left to right (R421). -/
def crcBytes (c : Crc16) (bs : List Byte) : Crc16 := bs.foldl crcByte c

/-- `CrcPreset()` in double or single density (R424). -/
def crcPreset (doubleDensity : Bool) : Crc16 := if doubleDensity then Config.crcResetA1A1A1 else Config.crcReset

end Sys2Proof.Machine
end

