-- ==== Sys2Proof/Machine/Memory.lean ====
section
/-! DEFINITION. Reading and writing the byte arrays of the block (20_memory.md R60): the tape and the tracks, each in its
one canonical form. -/

namespace Sys2Proof.Machine

/-- The byte at address `i` of a list of cells. -/
def cellRead : List Host.Cell → Nat → Byte
  | [], _ => unlistedByte
  | (a, v) :: rest, i => if i = a then v else cellRead rest i

/-- The cells with byte `v` at address `i`, keeping the canonical form. -/
def cellWrite : List Host.Cell → Nat → Byte → List Host.Cell
  | [], i, v => if v = unlistedByte then [] else [(i, v)]
  | (a, w) :: rest, i, v =>
    if i < a then (if v = unlistedByte then (a, w) :: rest else (i, v) :: (a, w) :: rest)
    else if i = a then (if v = unlistedByte then rest else (i, v) :: rest)
    else (a, w) :: cellWrite rest i v

/-- The byte at address `i`, or nothing where the array has no such address. -/
def Memory.read? (m : Memory) (i : Nat) : Option Byte :=
  if i < m.size then some (cellRead m.cells i) else none

/-- The byte at an address the caller has checked to exist. -/
def Memory.byteAt (m : Memory) (i : Nat) : Byte := cellRead m.cells i

/-- The array with byte `v` at address `i`; an address that does not exist is not written. -/
def Memory.write (m : Memory) (i : Nat) (v : Byte) : Memory :=
  if i < m.size then { m with cells := cellWrite m.cells i v } else m

/-- The array grown to `n` bytes, the new ones 0x00 (41_cassette.md R176). -/
def Memory.grow (m : Memory) (n : Nat) : Memory := { m with size := n }

/-- The cells of a list of bytes laid out from address `k`. -/
def cellsFrom : Nat → List Byte → List Host.Cell
  | _, [] => []
  | k, v :: rest => if v = unlistedByte then cellsFrom (k + 1) rest else (k, v) :: cellsFrom (k + 1) rest

/-- The array that holds exactly these bytes. -/
def Memory.ofBytes (bytes : List Byte) : Memory := { size := bytes.length, cells := cellsFrom 0 bytes }

/-- The rising list of positions with `i` in it. -/
def positionsSet : List Nat → Nat → List Nat
  | [], i => [i]
  | a :: rest, i => if i < a then i :: a :: rest else if i = a then a :: rest else a :: positionsSet rest i

/-- The rising list of positions without `i`. -/
def positionsClear : List Nat → Nat → List Nat
  | [], _ => []
  | a :: rest, i => if i = a then rest else a :: positionsClear rest i

/-- `idam[i] <- b` on a bitmap. -/
def positionsPut (ps : List Nat) (i : Nat) (b : Bool) : List Nat :=
  if b then positionsSet ps i else positionsClear ps i

/-- One array position of a track written: `data[i] <- v; idam[i] <- mark` (20_memory.md R68). -/
def Track.put (t : Track) (i : Nat) (v : Byte) (mark : Bool) : Track :=
  if i < t.data.size then { data := t.data.write i v, idam := positionsPut t.idam i mark } else t

end Sys2Proof.Machine
end

