-- ==== Sys2Proof/Machine/Scheduler.lean ====
section
/-! DEFINITION. The tick clock and the pulse scheduler (40_clock_scheduler.md R130 to R142), the latches (10_state.md R23)
and the emitted events (R156). -/

namespace Sys2Proof.Machine

/-! ## The requests -/

def Scheduler.get (c : Scheduler) : RequestId → PulseReq
  | .command => c.command
  | .motorOn => c.motorOn
  | .motorOff => c.motorOff
  | .read => c.read

def Scheduler.set (c : Scheduler) (q : RequestId) (r : PulseReq) : Scheduler :=
  match q with
  | .command => { c with command := r }
  | .motorOn => { c with motorOn := r }
  | .motorOff => { c with motorOff := r }
  | .read => { c with read := r }

/-- `UsToTicks(us)` (R133). -/
def usToTicks (p : Config.Params) (us : Nat) : Nat := us * p.tps / 1000000

/-- A delay in ticks, converted once at registration (R133, R134). -/
def delayTicks (p : Config.Params) (basis : Basis) (delay : Nat) : Nat :=
  match basis with
  | .ticks => delay
  | .microseconds => usToTicks p delay

/-- `Register(q, basis, delay, cb)` (R134, R136). -/
def register (q : RequestId) (basis : Basis) (delay : Nat) (cb : Callback) (s : State) : State :=
  { s with
    sched := { s.sched.set q
      { active := true, trigger := s.tickCount + delayTicks s.params basis delay, seq := s.sched.nextSeq
        basis := basis, delay := delay, callback := cb } with nextSeq := s.sched.nextSeq + 1 } }

/-- `Expire(q)` (R135). -/
def expire (q : RequestId) (s : State) : State :=
  { s with sched := s.sched.set q { s.sched.get q with active := false } }

/-- The request is due (R140). -/
def due (s : State) (q : RequestId) : Bool :=
  (s.sched.get q).active && decide ((s.sched.get q).trigger ≤ s.tickCount)

/-- The four requests. -/
def allRequests : List RequestId := [.command, .motorOn, .motorOff, .read]

/-- `q` is delivered before `r`: least trigger, then least `seq` (R141). -/
def firesBefore (q r : PulseReq) : Bool :=
  decide (q.trigger < r.trigger) || (q.trigger == r.trigger && decide (q.seq < r.seq))

/-- The earlier of a request and the best one so far. -/
def earlier (s : State) (best : Option RequestId) (q : RequestId) : Option RequestId :=
  match best with
  | none => some q
  | some b => if firesBefore (s.sched.get q) (s.sched.get b) then some q else some b

/-- The due request that `Fire` takes, if any is due (R141). -/
def nextDue (s : State) : Option RequestId :=
  (allRequests.filter (due s)).foldl (earlier s) none

/-- The active request with the least trigger, if any is active. -/
def nextActive (s : State) : Option RequestId :=
  (allRequests.filter (fun q => (s.sched.get q).active)).foldl (earlier s) none

/-- `Advance(d)` may be taken: no request is due (R142; U27), and for every active request
`tick_count + d <= trigger + MAX_LATENESS` (R131). -/
def advanceEnabled (s : State) (d : Nat) : Bool :=
  decide (1 ≤ d) &&
    allRequests.all fun q =>
      !due s q &&
        (!(s.sched.get q).active || decide (s.tickCount + d ≤ (s.sched.get q).trigger + s.params.maxLateness))

/-- `Advance(d)` (R131). -/
def advance (d : Nat) (s : State) : Host.Outcome State Fault Refusal :=
  if !advanceEnabled s d then .refused .advanceNotEnabled
  else if Config.tickLimit ≤ s.tickCount + d then .refused .tickOverflow
  else .next { s with tickCount := s.tickCount + d }

/-! ## Latches and events -/

def Latches.set (l : Latches) (which : Latch) (b : Bool) : Latches :=
  match which with
  | .cassetteRisingEdge => { l with cassetteRisingEdge := b }
  | .cassetteFallingEdge => { l with cassetteFallingEdge := b }
  | .fdcNmi => { l with fdcNmi := b }
  | .fdcMotorOffNmi => { l with fdcMotorOffNmi := b }

def Latches.get (l : Latches) : Latch → Bool
  | .cassetteRisingEdge => l.cassetteRisingEdge
  | .cassetteFallingEdge => l.cassetteFallingEdge
  | .fdcNmi => l.fdcNmi
  | .fdcMotorOffNmi => l.fdcMotorOffNmi

/-- `Latch(l)` (00_scope.md R11). -/
def latch (l : Latch) (s : State) : State := { s with latches := s.latches.set l true }

/-- `Unlatch(l)` (R11). -/
def unlatch (l : Latch) (s : State) : State := { s with latches := s.latches.set l false }

/-- `Emit(e)` (R11, R156). -/
def emit (e : Output) (s : State) : State := { s with outputs := s.outputs ++ [e] }

end Sys2Proof.Machine
end

