-- ==== Sys2Proof/Machine/Rotation.lean ====
section
/-! DEFINITION. Drives, the bound track and the rotating-media model: the derived quantities of 10_state.md R36 and
40_clock_scheduler.md R144 to R149, and the media accesses of 20_memory.md R67 to R72. -/

namespace Sys2Proof.Machine

/-! ## Drives and the bound track -/

def Drives.get (d : Drives) : DriveId → DriveState
  | .d0 => d.d0
  | .d1 => d.d1
  | .d2 => d.d2
  | .d3 => d.d3

def Drives.set (d : Drives) (k : DriveId) (v : DriveState) : Drives :=
  match k with
  | .d0 => { d with d0 := v }
  | .d1 => { d with d1 := v }
  | .d2 => { d with d2 := v }
  | .d3 => { d with d3 := v }

/-- `CurDrive` (R36). -/
def curDrive (s : State) : Option DriveState := s.fdc.currentDrive.map s.drives.get

/-- The current drive replaced by `f` of it; nothing with no drive selected. -/
def mapCurDrive (f : DriveState → DriveState) (s : State) : State :=
  match s.fdc.currentDrive with
  | none => s
  | some d => { s with drives := s.drives.set d (f (s.drives.get d)) }

/-- `OnTrackZero` (R36). -/
def onTrackZero (s : State) : Bool :=
  match curDrive s with
  | none => false
  | some d => d.physicalTrack == 0

/-- `DriveWP` (R36). -/
def driveWP (s : State) : Bool :=
  match curDrive s with
  | none => false
  | some d => d.writeProtected

/-- The entry of an image stands at this physical track and side. -/
def TrackEntry.isAt (e : TrackEntry) (cylinder : Nat) (sideOne : Bool) : Bool :=
  e.cylinder == cylinder && e.sideOne == sideOne

/-- The track of a list of entries at a physical track and side. -/
def findTrack : List TrackEntry → Nat → Bool → Option Track
  | [], _, _ => none
  | e :: rest, c, sd => if e.isAt c sd then some e.track else findTrack rest c sd

/-- The entries with the track at a physical track and side replaced by `f` of it. -/
def updateTrack (f : Track → Track) : List TrackEntry → Nat → Bool → List TrackEntry
  | [], _, _ => []
  | e :: rest, c, sd => if e.isAt c sd then { e with track := f e.track } :: rest else e :: updateTrack f rest c sd

/-- `BoundTrack` (R36). -/
def boundTrack (s : State) : Option Track :=
  match curDrive s with
  | none => none
  | some d =>
    match d.floppy with
    | none => none
    | some img => findTrack img.tracks d.physicalTrack s.fdc.sideOneSelected

/-! ## Rotation -/

/-- `TICKS_PER_REV` (40_clock_scheduler.md R144). -/
def ticksPerRev (p : Config.Params) : Nat := p.tps / Config.revsPerSecond

/-- `DiskAngle` (R144). -/
def diskAngle (s : State) : Nat :=
  s.tickCount % ticksPerRev s.params * Config.angleDivisions / ticksPerRev s.params

/-- `IndexDetect` (R145). -/
def indexDetect (s : State) : Bool := s.fdc.motorOn && decide (diskAngle s < Config.indexPulseEnd)

/-- `IndexesFound` (R146). -/
def indexesFound (s : State) : Nat :=
  if s.tickCount < s.fdc.indexCheckStartTick then 0
  else (s.tickCount - s.fdc.indexCheckStartTick) / ticksPerRev s.params

/-- `ResetIndexCount()` (R147). -/
def resetIndexCount (s : State) : State :=
  { s with fdc.indexCheckStartTick :=
      s.tickCount - s.tickCount % ticksPerRev s.params + Config.indexStartOffset }

/-- `TrackLen` (R148). -/
def trackLen (s : State) : Nat :=
  match boundTrack s with
  | some t => t.data.size
  | none => if s.fdc.doubleDensity then Config.trackLenDd else Config.trackLenSd

/-- `TrackDataIndex` (R149). -/
def trackDataIndex (s : State) : Nat := diskAngle s * trackLen s / Config.angleDivisions

/-! ## Media access -/

/-- Runs `f` where the head can address the track: the index exists, and single density has a track of even length
(20_memory.md R72; assumption log 10 and 11). Every media access and every byte wait goes through here. -/
def withHead (f : State → Host.Outcome State Fault Refusal) (s : State) : Host.Outcome State Fault Refusal :=
  if trackLen s ≤ trackDataIndex s then .fault .trackIndexOutOfRange
  else if !s.fdc.doubleDensity && trackLen s % 2 == 1 then .refused .oddTrackLength
  else f s

/-- `HasIdam(i)` (20_memory.md R70). -/
def hasIdam (s : State) (i : Nat) : Bool :=
  match boundTrack s with
  | none => false
  | some t => t.idam.contains i

/-- The byte `TrackRead(i)` answers (R67): with no bound track a draw, the next free value. -/
def trackByte (s : State) (i : Nat) : Byte :=
  match boundTrack s with
  | none => Config.freeByte s.draws
  | some t => t.data.byteAt i

/-- The state after `TrackRead`: a read with no bound track takes one draw (R67: "drawn afresh at every read"). -/
def afterTrackRead (s : State) : State :=
  match boundTrack s with
  | none => { s with draws := s.draws + 1 }
  | some _ => s

/-- One logical byte of a track written: in single density it fills two array positions (R68). -/
def Track.putLogical (t : Track) (doubleDensity : Bool) (i : Nat) (v : Byte) (mark : Bool) : Track :=
  if doubleDensity then t.put i v mark
  else (t.put i v mark).put ((i + 1) % t.data.size) v false

/-- The drive's image after a media write at its head (R68). -/
def DriveState.writeTrack (d : DriveState) (sideOne doubleDensity : Bool) (i : Nat) (v : Byte) (mark : Bool) :
    DriveState :=
  match d.floppy with
  | none => d
  | some img =>
    match findTrack img.tracks d.physicalTrack sideOne with
    | none => d
    | some _ =>
      { d with
        floppy := some {
          tracks := updateTrack (fun t => t.putLogical doubleDensity i v mark) img.tracks d.physicalTrack sideOne
          changed := true } }

/-- `TrackWrite(i, v, idam)` (R68): nothing with no bound track. -/
def trackWrite (i : Nat) (v : Byte) (mark : Bool) (s : State) : State :=
  mapCurDrive (fun d => d.writeTrack s.fdc.sideOneSelected s.fdc.doubleDensity i v mark) s

/-! ## The read of one byte, for claims about memory -/

/-- The track of drive `d` at a physical track and side, if it has one. -/
def trackAt (s : State) (d : DriveId) (cylinder : Nat) (sideOne : Bool) : Option Track :=
  match (s.drives.get d).floppy with
  | none => none
  | some img => findTrack img.tracks cylinder sideOne

/-- The media byte of drive `d` at a physical track, side and array index, if it exists (R60). -/
def mediaByte (s : State) (d : DriveId) (cylinder : Nat) (sideOne : Bool) (i : Nat) : Option Byte :=
  match trackAt s d cylinder sideOne with
  | none => none
  | some t => t.data.read? i

/-- The IDAM bit at the same place; false where there is no such track (R60). -/
def mediaMark (s : State) (d : DriveId) (cylinder : Nat) (sideOne : Bool) (i : Nat) : Bool :=
  match trackAt s d cylinder sideOne with
  | none => false
  | some t => t.idam.contains i

/-- The tape byte at an array index, if it exists (R60). -/
def tapeByte (s : State) (i : Nat) : Option Byte := s.cas.data.read? i

end Sys2Proof.Machine
end

