-- ==== Sys2Proof/Machine/Ops.lean ====
section
/-! DEFINITION. The operations the sequencers share: the two wait primitives (40_clock_scheduler.md R150, R152), the
completion path that stands for taking an exception, and the acknowledgement that stands for returning from one
(60_exceptions.md R441 to R443, R453). -/

namespace Sys2Proof.Machine

/-! ## Wait primitives -/

/-- `WaitTime(us, S)` (R150): ends the step with the sequencer in `S` and its next run `us` microseconds away. -/
def waitTime (us : Nat) (next : OpStatus) (s : State) : State :=
  register .command .microseconds us .fdcAdvance
    { expire .command s with fdc.isPolling := false, fdc.nextCallback := none, fdc.opStatus := next }

/-- The array position `n` logical bytes ahead of the head: doubled and aligned to even in single density (R152, R72). -/
def byteWaitTarget (n : Nat) (s : State) : Nat :=
  if s.fdc.doubleDensity then (trackDataIndex s + n) % trackLen s
  else (trackDataIndex s + n * 2) % trackLen s - (trackDataIndex s + n * 2) % trackLen s % 2

/-- The angle at which array position `target` begins (R152). -/
def cellAngle (target : Nat) (s : State) : Nat := target * Config.angleDivisions / trackLen s

/-- The rotational time until `target` comes under the head, plus the safety margin (R152, D6). -/
def byteWaitDelay (target : Nat) (s : State) : Nat :=
  (cellAngle target s + Config.angleDivisions - diskAngle s) % Config.angleDivisions * ticksPerRev s.params /
    Config.angleDivisions + Config.pollMarginTicks

/-- The state `WaitBytes(n, S)` leaves where the head can address the track (R152). -/
def armByteWait (n : Nat) (next : OpStatus) (s : State) : State :=
  register .command .ticks (byteWaitDelay (byteWaitTarget n s) s) .poll
    { expire .command s with
      fdc.targetDataIndex := byteWaitTarget n s, fdc.isPolling := true, fdc.nextCallback := some .fdcAdvance
      fdc.opStatus := next }

/-- `WaitBytes(n, S)` (R152). -/
def waitBytes (n : Nat) (next : OpStatus) : State → Host.Outcome State Fault Refusal :=
  withHead fun s => .next (armByteWait n next s)

/-! ## The completion path -/

/-- `Terminate()` (R441): the command ends 30 µs from now, in state `NMI`. -/
def terminate (s : State) : State := waitTime Config.nmiDelayUs .nmi s

/-- `DoNMI()` (R442): the end of a command, announced to the CPU. -/
def doNmi (s : State) : State :=
  latch .fdcNmi { s with fdc.busy := false, fdc.drq := false }

/-- State `NMI` (R443). -/
def nmiState (s : State) : State := doNmi { s with fdc.opStatus := .opDone }

/-- The CPU's acknowledgement of `FdcNmi`: a status read or a command start unlatches it (R453). -/
def acknowledgeNmi (s : State) : State := unlatch .fdcNmi s

/-! ## Small register updates the sequencers share -/

/-- `crc <- CrcPreset(); crc <- CrcByte(crc, b)`: a mark under the head starts its field's CRC (47_crc.md R426). -/
def startCrc (b : Byte) (s : State) : State := { s with fdc.crc := crcByte (crcPreset s.fdc.doubleDensity) b }

/-- A read-type byte is offered to the CPU: an uncollected one before it is lost (60_exceptions.md R448). -/
def offerByte (b : Byte) (s : State) : State :=
  { s with fdc.lostData := s.fdc.lostData || s.fdc.drq, fdc.dataRegister := b, fdc.drq := true }

/-- The byte a write-type sequencer takes from the CPU: 0x00 where the CPU furnished none (R448). -/
def takenByte (s : State) : Byte := if s.fdc.drq then 0x00#8 else s.fdc.dataRegister

/-- `lost_data` after a write-type sequencer took its byte (R448). -/
def noteTaken (s : State) : State := { s with fdc.lostData := s.fdc.lostData || s.fdc.drq }

end Sys2Proof.Machine
end

