-- ==== Sys2Proof/Machine/Operands.lean ====
section
/-! DEFINITION. Every operand form: the fields of the command byte (30_encoding.md R91 to R94), of the port 0xF4 and
cassette bytes (R106, R107), of the sector header (R110, R111), and the Step sub-command (R92). -/

namespace Sys2Proof.Machine

/-! ## Fields of `command_register` -/

/-- `V`, bit 2 of a Type I byte (R91). -/
def verifyField (cr : Byte) : Bool := bitAt cr 2

/-- `u`, bit 4 of a Step byte (R91). -/
def updateField (cr : Byte) : Bool := bitAt cr 4

/-- `r`, bits 1:0 of a Type I byte (R91). -/
def rateField (cr : Byte) : BitVec 2 := cr.extractLsb' 0 2

/-- The Step sub-command, bits 6:5 (R92). -/
def subCommandField (cr : Byte) : BitVec 2 := cr.extractLsb' 5 2

/-- `m`, bit 4 of a Type II byte (R93). -/
def multipleField (cr : Byte) : Bool := bitAt cr 4

/-- `S`, bit 3 of a Type II byte (R93). -/
def sideOneField (cr : Byte) : Bool := bitAt cr 3

/-- `E`, bit 2 of a Type II or III byte (R93, R94). -/
def delayField (cr : Byte) : Bool := bitAt cr 2

/-- `C`, bit 1 of a Type II byte (R93). -/
def sideVerifyField (cr : Byte) : Bool := bitAt cr 1

/-- `a0`, bit 0 of a WriteSector byte (R93). -/
def deletedField (cr : Byte) : Bool := bitAt cr 0

/-- `STEP_RATES_MS` indexed by command bits 1:0, in microseconds (R6, 43_fdc_type1.md R285). -/
def stepRateUs (r : BitVec 2) : Nat :=
  match r with
  | 0#2 => 6000
  | 1#2 => 12000
  | 2#2 => 20000
  | 3#2 => 30000

/-- `StepRateUs` (10_state.md R27, 43_fdc_type1.md R285). -/
def stepRate (s : State) : Nat := stepRateUs (rateField s.fdc.commandRegister)

/-- The direction a Step byte leaves: in is up, out is down, plain Step keeps it (R92). -/
def stepDirection (cr : Byte) (before : Bool) : Bool :=
  if subCommandField cr = 0b10#2 then true
  else if subCommandField cr = 0b11#2 then false
  else before

/-! ## Port bytes -/

/-- The drive a port 0xF4 byte selects: the lowest-numbered set bit of bits 3:0 (R106). -/
def selectedDrive (v : Byte) : Option DriveId :=
  if bitAt v 0 then some .d0
  else if bitAt v 1 then some .d1
  else if bitAt v 2 then some .d2
  else if bitAt v 3 then some .d3
  else none

/-- The polarity of a cassette port byte: bits 1:0 (R107). -/
def polarityOf (v : Byte) : Polarity :=
  match bitAt v 1, bitAt v 0 with
  | false, true => .positive
  | true, false => .negative
  | _, _ => .zero

/-! ## The sector header -/

/-- `sector_length = 128 << (size_code & 3)` (R111). -/
def sectorLengthOf (size : Byte) : Nat := 128 <<< (size.extractLsb' 0 2).toNat

/-- `read_address_data[k] <- b` (10_state.md R30); there is no seventh byte. -/
def AddressData.put (a : AddressData) (k : Nat) (b : Byte) : AddressData :=
  match k with
  | 0 => { a with track := b }
  | 1 => { a with side := b }
  | 2 => { a with sector := b }
  | 3 => { a with size := b }
  | 4 => { a with crcHi := b }
  | 5 => { a with crcLo := b }
  | _ => a

/-- The header matches a Type II command (44_fdc_type2.md R315). -/
def headerMatches (s : State) : Bool :=
  s.fdc.readAddressData.track == s.fdc.trackRegister &&
    s.fdc.readAddressData.sector == s.fdc.sectorRegister &&
    (!s.fdc.sideSelectVerify || (s.fdc.readAddressData.side != 0#8) == s.fdc.sideOneExpected)

/-- `HeaderCrcOk`, and the same comparison for a data field: stored CRC equals computed CRC (42_fdc_ports_dispatch.md
R261, 60_exceptions.md R446). -/
def crcMatches (s : State) : Bool := word16 s.fdc.crcHigh s.fdc.crcLow == s.fdc.crcCalc

end Sys2Proof.Machine
end

