-- ==== Sys2Proof/Machine/Flags.lean ====
section
/-! DEFINITION. Every flag computation the spec gives: the status byte (30_encoding.md R103 to R105), the flags a command
start clears (42_fdc_ports_dispatch.md R240), the cassette status and its port byte (41_cassette.md R171, R185). -/

namespace Sys2Proof.Machine

/-- The status byte has the Type I layout (R103): the commands of Type I and Type IV. -/
def Command.typeILayout : Command → Bool
  | .restore | .seek | .step | .reset | .forceInterrupt | .forceInterruptImmediate => true
  | .readSector | .writeSector | .readAddress | .readTrack | .writeTrack => false

/-- The commands that transfer data through `drq` (10_state.md R35 (b)). -/
def Command.transfers (c : Command) : Bool := !c.typeILayout

/-- The Type I status byte (R103). -/
def statusTypeI (s : State) : Byte :=
  byteOfBits (!s.fdc.motorOn) (driveWP s) s.fdc.motorOn s.fdc.seekError s.fdc.crcError (onTrackZero s)
    (indexDetect s) s.fdc.busy

/-- The Type II and III status byte, gated by the command (R104). -/
def statusTypeII (s : State) : Byte :=
  byteOfBits (!s.fdc.motorOn)
    (s.fdc.writeProtected && (s.fdc.command == .writeSector || s.fdc.command == .writeTrack))
    (s.fdc.sectorDeleted && s.fdc.command == .readSector)
    (s.fdc.seekError &&
      (s.fdc.command == .readSector || s.fdc.command == .writeSector || s.fdc.command == .readAddress))
    (s.fdc.crcError &&
      (s.fdc.command == .readSector || s.fdc.command == .writeSector || s.fdc.command == .readAddress))
    s.fdc.lostData s.fdc.drq s.fdc.busy

/-- `Status` (10_state.md R25, R105). -/
def statusByte (s : State) : Byte := if s.fdc.command.typeILayout then statusTypeI s else statusTypeII s

/-- The six flags a command start clears, and `busy` set (R240). -/
def startFlags (s : State) : State :=
  { s with
    fdc.drq := false, fdc.lostData := false, fdc.seekError := false, fdc.crcError := false
    fdc.sectorDeleted := false, fdc.writeProtected := false, fdc.busy := true }

/-- The six values of `CassetteStatus` (41_cassette.md R171). -/
inductive CassetteStatus where
  | reading | readEngaged | writing | writeEngaged | waiting | stopped
deriving DecidableEq, Repr

/-- `CassetteStatus` (R171). -/
def cassetteStatus (c : Cassette) : CassetteStatus :=
  if c.motorOn then (if c.recordInvoked then .writing else .reading)
  else if c.motorEngaged then (if c.recordInvoked then .writeEngaged else .readEngaged)
  else if c.motorOnSignal then .waiting
  else .stopped

/-- The cassette port byte: bit 7 the flip-flop, bit 0 the last non-zero polarity positive; 0x00 with no transition (R185). -/
def cassettePortByte (c : Cassette) : Byte :=
  match c.transition with
  | none => 0x00#8
  | some t => byteOfBits t.flipFlop false false false false false false (t.lastNonZero == .positive)

end Sys2Proof.Machine
end

