-- ==== Sys2Proof/Machine/Cassette.lean ====
section
/-! DEFINITION. The cassette: motor and deck, cursor, read synthesizer and write detector (41_cassette.md). -/

namespace Sys2Proof.Machine

/-- Runs `f` where the tape cursor stands on a byte of the tape (10_state.md R46; assumption log 11). -/
def withTape (f : State → Host.Outcome State Fault Refusal) (s : State) : Host.Outcome State Fault Refusal :=
  if s.cas.data.size ≤ s.cas.byteCursor then .fault .tapeCursorOutOfRange else f s

/-! ## Motor off and the end of the tape -/

/-- The composite motor turns off: the transition and its pending request go (R172). -/
def motorTurnsOff (s : State) : State :=
  expire .read { s with cas.motorOn := false, cas.transition := none }

/-- `Stop` (R179). With `motor_engaged` false `UpdateMotor` can only turn the motor off. -/
def stopTape (s : State) : State :=
  let released := { s with cas.motorEngaged := false, cas.recordInvoked := false }
  if s.cas.motorOn then motorTurnsOff released else released

/-! ## Cursor -/

/-- `FeedHeaderDetector(b)` (R180). -/
def feedHeaderDetector (b : Byte) (c : Cassette) : Cassette :=
  if b = 0x55#8 ∨ b = 0xAA#8 then
    { c with
      consecutiveFiftyFives := c.consecutiveFiftyFives + 1, consecutiveZeros := 0
      speed := if Config.headerRun ≤ c.consecutiveFiftyFives + 1 then .high else c.speed }
  else if b = 0x00#8 then
    { c with
      consecutiveZeros := c.consecutiveZeros + 1, consecutiveFiftyFives := 0
      speed := if Config.headerRun ≤ c.consecutiveZeros + 1 then .low else c.speed }
  else { c with consecutiveFiftyFives := 0, consecutiveZeros := 0 }

/-- The length `Grow()` aims at (R176). -/
def grownLength (c : Cassette) : Nat := min Config.maxTapeLength (c.data.size * 11 / 10)

/-- `Grow()` succeeds (R176). -/
def canGrow (c : Cassette) : Bool := decide (c.data.size < grownLength c)

/-- The cursor on bit 7 of the next byte (R175). -/
def toNextByte (c : Cassette) : Cassette := { c with byteCursor := c.byteCursor + 1, bitCursor := 7 }

/-- The byte the cursor leaves, fed to the header detector while reading (R175). -/
def leaveByte (writing : Bool) (c : Cassette) : Cassette :=
  if writing then c else feedHeaderDetector (c.data.byteAt c.byteCursor) c

/-- `AdvanceCursor(writing)` (R175). -/
def advanceCursor (writing : Bool) (s : State) : State :=
  if 0 < s.cas.bitCursor then { s with cas.bitCursor := s.cas.bitCursor - 1 }
  else if s.cas.byteCursor + 1 < s.cas.data.size then { s with cas := toNextByte (leaveByte writing s.cas) }
  else if writing && canGrow s.cas then
    { s with cas := toNextByte { s.cas with data := s.cas.data.grow (grownLength s.cas) } }
  else stopTape { s with cas := leaveByte writing s.cas }

/-- `TapeBit()` (20_memory.md R74). -/
def tapeBit (c : Cassette) : Bool := bitAt (c.data.byteAt c.byteCursor) c.bitCursor

/-! ## Read path -/

/-- The polarity of a phase (R182). -/
def Phase.polarity : Phase → Polarity
  | .hiPos | .loClkPos | .loDatPos => .positive
  | .hiNeg | .loClkNeg | .loDatNeg => .negative
  | .start | .loPostClk | .loPostDat => .zero

/-- The duration of a phase in ticks (R182). -/
def phaseDuration (p : Config.Params) (bit : Bool) : Phase → Nat
  | .hiPos | .hiNeg => if bit then Config.hiOne else Config.hiZero
  | .loClkPos | .loDatPos => p.loPulsePos
  | .loClkNeg | .loDatNeg => p.loPulseNeg
  | .loPostClk => if bit then Config.loPostClockOne else Config.loPostDataZero
  | .loPostDat => Config.loPostDataOne
  | .start => 0

/-- The phase after a phase of the same bit; none where the next bit begins (R182, R183). -/
def Phase.following (bit : Bool) : Phase → Option Phase
  | .start | .hiNeg | .loPostDat => none
  | .loPostClk => if bit then some .loDatPos else none
  | .hiPos => some .hiNeg
  | .loClkPos => some .loClkNeg
  | .loClkNeg => some .loPostClk
  | .loDatPos => some .loDatNeg
  | .loDatNeg => some .loPostDat

/-- A phase of polarity `pol` entered from `before` is a rising edge (R183, D34). -/
def risingEdge (before pol : Polarity) : Bool := pol == .positive && before != .positive

/-- A phase of polarity `pol` entered from `before` is a falling edge (R183, D34). -/
def fallingEdge (before pol : Polarity) : Bool := pol == .negative && before != .negative

/-- The transition after `EnterPhase(p, dur)` (R183). -/
def Transition.enter (t : Transition) (ph : Phase) (dur : Nat) : Transition :=
  { t with
    phase := ph, before := t.after, after := ph.polarity
    lastNonZero := if ph.polarity = .zero then t.lastNonZero else ph.polarity
    flipFlop := t.flipFlop || risingEdge t.after ph.polarity
    phaseEnd := t.phaseEnd + dur }

/-- The latches after a phase of polarity `pol` is entered from `before` (R183). -/
def Latches.onEdge (l : Latches) (before pol : Polarity) : Latches :=
  { l with
    cassetteRisingEdge := l.cassetteRisingEdge || risingEdge before pol
    cassetteFallingEdge := l.cassetteFallingEdge || fallingEdge before pol }

/-- `EnterPhase(p, dur)` on the transition `t` of the state (R183). -/
def enterPhase (ph : Phase) (t : Transition) (s : State) : State :=
  { s with
    cas.transition := some (t.enter ph (phaseDuration s.params t.bit ph))
    latches := s.latches.onEdge t.after ph.polarity }

/-- The first phase of a bit at a speed (R183). -/
def firstPhase : TapeSpeed → Phase
  | .high => .hiPos
  | .low => .loClkPos

/-- `StartBit()` (R183): the bit is fetched, the cursor advances, and where the tape did not end the bit begins at the
speed as it is now. -/
def startBit (s : State) : State :=
  let a := advanceCursor false s
  match a.cas.transition with
  | none => a
  | some t => enterPhase (firstPhase a.cas.speed) { t with bit := tapeBit s.cas } a

/-- `NextPhase()` (R183). -/
def nextPhase (s : State) : State :=
  match s.cas.transition with
  | none => s
  | some t =>
    match t.phase.following t.bit with
    | some ph => enterPhase ph t s
    | none => startBit s

/-- The read request armed for the end of the current phase, if a transition is present (R181, R184). -/
def armRead (s : State) : State :=
  match s.cas.transition with
  | none => s
  | some t => register .read .ticks (t.phaseEnd - s.tickCount) .cassetteReadCallback s

/-- The transition `StartRead()` begins with (R181). -/
def freshTransition (tick : Nat) : Transition :=
  { phase := .start, bit := false, phaseEnd := tick, before := .zero, after := .zero, lastNonZero := .negative
    flipFlop := false, clearPending := false }

/-- `StartRead()` (R181). -/
def startRead (s : State) : State :=
  armRead (nextPhase { s with cas.transition := some (freshTransition s.tickCount) })

/-- The phases that end at or before the tick, crossed one after the other (R184); `fuel` bounds how many. -/
def runPhases : Nat → State → State
  | 0, s => s
  | fuel + 1, s =>
    match s.cas.transition with
    | none => s
    | some t => if t.phaseEnd ≤ s.tickCount then runPhases fuel (nextPhase s) else s

/-- As many phases as can end in the ticks from the end of the current phase: at most two phases in a row can last no
tick (assumption log 20). -/
def phaseFuel (s : State) : Nat :=
  match s.cas.transition with
  | none => 0
  | some t => 3 * (s.tickCount + 1 - t.phaseEnd) + 3

/-- The deferred clearing of the flip-flop at a transition update (R184, R185). -/
def Transition.clearFlipFlop (t : Transition) : Transition :=
  if t.clearPending then { t with flipFlop := false, clearPending := false } else t

/-- `CassetteReadCallback` (R184). -/
def cassetteReadCallback (s : State) : Host.Outcome State Fault Refusal :=
  match s.cas.transition with
  | none => .next s
  | some t =>
    withTape
      (fun s =>
        let cleared := { s with cas.transition := some t.clearFlipFlop }
        .next (armRead (runPhases (phaseFuel cleared) cleared))) s

/-- The state after `PortIn(CASSETTE_PORT)`: the clearing of the flip-flop is pending (R185). -/
def afterCassetteRead (s : State) : State :=
  { s with cas.transition := s.cas.transition.map fun t => { t with clearPending := true } }

/-! ## Motor and deck -/

/-- `UpdateMotor()` (R172). -/
def updateMotor (s : State) : Host.Outcome State Fault Refusal :=
  let new := s.cas.motorEngaged && s.cas.motorOnSignal
  if new && !s.cas.motorOn then
    if s.cas.recordInvoked then .next { s with cas.motorOn := true }
    else withTape (fun s => .next (startRead { s with cas.motorOn := true })) s
  else if !new && s.cas.motorOn then .next (motorTurnsOff s)
  else .next s

/-- `SetMotorSignal(b)` (R173). -/
def setMotorSignal (b : Bool) (s : State) : Host.Outcome State Fault Refusal :=
  updateMotor { s with cas.motorOnSignal := b }

/-- The deck actions that are enabled only while the motor is not engaged (R174, R177, R178, R188). -/
def whileReleased (f : State → Host.Outcome State Fault Refusal) (s : State) : Host.Outcome State Fault Refusal :=
  if s.cas.motorEngaged then .refused .deckNotEnabled else f s

/-- `Play` (R177). -/
def play : State → Host.Outcome State Fault Refusal :=
  whileReleased fun s => updateMotor { s with cas.motorEngaged := true, cas.recordInvoked := false }

/-- `Record` (R178). -/
def record : State → Host.Outcome State Fault Refusal :=
  whileReleased fun s => updateMotor { s with cas.motorEngaged := true, cas.recordInvoked := true }

/-- The tape at its start and the header counters cleared (R174). -/
def rewound (c : Cassette) : Cassette :=
  { c with byteCursor := 0, bitCursor := 7, consecutiveFiftyFives := 0, consecutiveZeros := 0 }

/-- `Rewind` (R174). -/
def rewind : State → Host.Outcome State Fault Refusal :=
  whileReleased fun s => .next { s with cas := rewound s.cas }

/-- `InsertTape(bytes)` (R188). -/
def insertTape (bytes : List Byte) : State → Host.Outcome State Fault Refusal :=
  whileReleased fun s =>
    if (Input.insertTape bytes).wf then
      .next { s with
        cas := rewound { s.cas with
          data := Memory.ofBytes bytes, isBlank := bytes.all (fun b => b == 0x00#8), changed := false } }
    else .refused .malformedTape

/-! ## Write path -/

/-- `WriteBit(value)` (R195). -/
def writeBit (value : Bool) (s : State) : State :=
  advanceCursor true
    { s with
      cas.data := s.cas.data.write s.cas.byteCursor
        (setBit (s.cas.data.byteAt s.cas.byteCursor) s.cas.bitCursor value)
      cas.isBlank := s.cas.isBlank && !value
      cas.changed := true }

/-- The classes of a positive-edge interval (R191). -/
inductive EdgeClass where
  | high | low | ignored
deriving DecidableEq, Repr

/-- The class of an interval, range ends inclusive (R191). -/
def edgeClass (delta : Nat) : EdgeClass :=
  if (721000 ≤ delta ∧ delta ≤ 797000) ∨ (1459000 ≤ delta ∧ delta ≤ 1861000) then .high
  else if (1923000 ≤ delta ∧ delta ≤ 2281000) ∨ (3858000 ≤ delta ∧ delta ≤ 4379000) then .low
  else .ignored

/-- Evidence for the high format, and its lock (R192, R194). -/
def countHigh (c : Cassette) : Cassette :=
  let e := min Config.evidenceMax (c.highSpeedWriteEvidence + 1)
  { c with highSpeedWriteEvidence := e, speed := if Config.evidenceLock < e then .high else c.speed }

/-- Evidence for the low format, and its lock (R193, R194). -/
def countLow (c : Cassette) : Cassette :=
  let e := max (-Config.evidenceMax) (c.highSpeedWriteEvidence - 1)
  { c with highSpeedWriteEvidence := e, speed := if e < -Config.evidenceLock then .low else c.speed }

/-- `HighClass(Δ)` (R192). -/
def highClass (delta : Nat) (s : State) : State :=
  writeBit (decide (delta < Config.hiThreshold)) { s with cas := countHigh s.cas }

/-- `LowClass(Δ)` (R193). -/
def lowClass (delta : Nat) (s : State) : State :=
  let counted := { s with cas := countLow s.cas }
  if s.cas.skippedLast then writeBit true { counted with cas.skippedLast := false }
  else if Config.loThreshold < delta then writeBit false counted
  else { counted with cas.skippedLast := true }

/-- The timestamps of the last two positive edges (R191). -/
def noteEdge (s : State) : State :=
  { s with cas.nextLastWritePositive := s.cas.lastWritePositive, cas.lastWritePositive := s.tickCount }

/-- `PositiveEdge()` (R191). -/
def positiveEdge (s : State) : State :=
  let delta := s.tickCount - s.cas.lastWritePositive
  match edgeClass delta with
  | .high => highClass delta (noteEdge s)
  | .low => lowClass delta (noteEdge s)
  | .ignored => noteEdge s

/-- A polarity change resets a pending flip-flop (R190). -/
def dropFlipFlop (s : State) : State :=
  { s with
    cas.transition := s.cas.transition.map fun t => { t with flipFlop := false, clearPending := false } }

/-- `PortOut(CASSETTE_PORT, v)` (R190). -/
def cassetteWrite (v : Byte) (s : State) : Host.Outcome State Fault Refusal :=
  if polarityOf v = s.cas.lastWritePolarity then .next s
  else if polarityOf v = .positive ∧ cassetteStatus s.cas = .writing then
    withTape (fun s => .next { positiveEdge (dropFlipFlop s) with cas.lastWritePolarity := polarityOf v }) s
  else .next { dropFlipFlop s with cas.lastWritePolarity := polarityOf v }

end Sys2Proof.Machine
end

