-- ==== Sys2Proof/Machine/Search.lean ====
section
/-! DEFINITION. The IDAM search and the header read that Type I verify, Type II and ReadAddress share
(42_fdc_ports_dispatch.md R260, R261). -/

namespace Sys2Proof.Machine

/-- The IDAM under the head is taken: its byte starts the header CRC (R260). -/
def takeIdam (s : State) : Host.Outcome State Fault Refusal :=
  waitBytes 1 .readingAddressData
    { startCrc (trackByte s (trackDataIndex s)) (afterTrackRead s) with fdc.readAddressIndex := 0 }

/-- State `SeekingIDAM` (R260), entered by a byte wait or, in a Type I verify, by a time wait; the first look of a verify is
then wherever the head is (43_fdc_type1.md R291; DEDUCED, unsafe: assumption log 15). -/
def seekingIDAM (s : State) : Host.Outcome State Fault Refusal :=
  if Config.seekErrorRevs ≤ indexesFound s then .next (terminate { s with fdc.seekError := true })
  else withHead (fun s => if hasIdam s (trackDataIndex s) then takeIdam s else waitBytes 1 .seekingIDAM s) s

/-- The CRC after header byte `k` (R261): bytes 0 to 3 are covered. -/
def headerCrc (k : Nat) (b : Byte) (c : Crc16) : Crc16 := if k < 4 then crcByte c b else c

/-- A header byte stored and counted (R261). -/
def storeHeaderByte (b : Byte) (s : State) : State :=
  { s with
    fdc.readAddressData := s.fdc.readAddressData.put s.fdc.readAddressIndex b
    fdc.crc := headerCrc s.fdc.readAddressIndex b s.fdc.crc
    fdc.crcCalc :=
      if s.fdc.readAddressIndex = 3 then headerCrc s.fdc.readAddressIndex b s.fdc.crc else s.fdc.crcCalc
    fdc.readAddressIndex := s.fdc.readAddressIndex + 1 }

/-- The stored CRC of a complete header captured for comparison (R261). -/
def captureHeaderCrc (s : State) : State :=
  { s with fdc.crcHigh := s.fdc.readAddressData.crcHi, fdc.crcLow := s.fdc.readAddressData.crcLo }

/-- Rule R261 on the byte `b`: the sixth byte goes on with the command's header-complete rule, in the same step. -/
def headerByte (b : Byte) (complete : State → Host.Outcome State Fault Refusal) (s : State) :
    Host.Outcome State Fault Refusal :=
  if s.fdc.readAddressIndex + 1 = 6 then complete (captureHeaderCrc (storeHeaderByte b s))
  else waitBytes 1 .readingAddressData (storeHeaderByte b s)

/-- State `ReadingAddressData` (R261). -/
def readingAddressData (complete : State → Host.Outcome State Fault Refusal) :
    State → Host.Outcome State Fault Refusal :=
  withHead fun s => headerByte (trackByte s (trackDataIndex s)) complete (afterTrackRead s)

/-- A search begins: `ResetIndexCount(); WaitBytes(1, S)` (R262). -/
def startSearch (next : OpStatus) (s : State) : Host.Outcome State Fault Refusal :=
  waitBytes 1 next (resetIndexCount s)

/-- The optional delay before a search: `WaitTime(DELAY_FLAG_US, Delay)` if the flag is set, else the search at once
(44_fdc_type2.md R310, 45_fdc_type3.md R360, R370, R380). -/
def delayOrSearch (next : OpStatus) (s : State) : Host.Outcome State Fault Refusal :=
  if s.fdc.delay then .next (waitTime s.params.delayFlagUs .delay s) else startSearch next s

end Sys2Proof.Machine
end

