-- ==== Sys2Proof/Machine/TypeI.lean ====
section
/-! DEFINITION. The sequencer states of the Type I commands (43_fdc_type1.md). -/

namespace Sys2Proof.Machine

/-- `StepUp()` (R287). -/
def stepUp (s : State) : State :=
  match curDrive s with
  | none => s
  | some d =>
    if d.physicalTrack < Config.maxTracks then
      emit .trackStep (mapCurDrive (fun d => { d with physicalTrack := d.physicalTrack + 1 }) s)
    else s

/-- `StepDown()` (R288). -/
def stepDown (s : State) : State :=
  match curDrive s with
  | none => s
  | some d =>
    if 0 < d.physicalTrack then
      emit .trackStep
        { mapCurDrive (fun d => { d with physicalTrack := d.physicalTrack - 1 }) s with
          fdc.trackRegister := if d.physicalTrack = 1 then 0x00#8 else s.fdc.trackRegister }
    else s

/-- The head moved one track in the direction of `last_step_dir_up` (R285). -/
def stepHead (s : State) : State := if s.fdc.lastStepDirUp then stepUp s else stepDown s

/-- `track_register` after one step in the direction of `last_step_dir_up`: an 8-bit counter that wraps, counted only
with `update_registers` (R285, D14). -/
def countStep (s : State) : State :=
  if s.fdc.updateRegisters then
    { s with fdc.trackRegister :=
        if s.fdc.lastStepDirUp then s.fdc.trackRegister + 1#8 else s.fdc.trackRegister - 1#8 }
  else s

/-- State `CheckVerify` (R290): with `verify` the search starts wherever the head is when its time wait ends (R291). DEDUCED,
unsafe: a sentence of R72 says otherwise (assumption log 15). -/
def checkVerify (s : State) : State :=
  if s.fdc.verify then waitTime Config.standardDelayUs .seekingIDAM (resetIndexCount s)
  else waitTime (Config.standardDelayUs + Config.nmiDelayUs) .nmi s

/-- The end of one pass of state `Step`, after the head moved: the track-zero test, and one step-rate delay (R285). -/
def endStepPass (s : State) : State :=
  if onTrackZero s && !s.fdc.lastStepDirUp then
    waitTime (stepRate s) .checkVerify { s with fdc.trackRegister := 0x00#8 }
  else if s.fdc.command = .step then waitTime (stepRate s) .checkVerify s
  else waitTime (stepRate s) .step s

/-- One pass of state `Step` that moves, or tries to move, the head (R285). -/
def stepPass (s : State) : State := endStepPass (stepHead (countStep s))

/-- `command in {Seek, Restore}`: the commands that step towards a target (R285). -/
def Command.seeks (c : Command) : Bool := c == .seek || c == .restore

/-- State `Step` (R285): Seek and Restore compare first and choose the direction. -/
def typeIStep (s : State) : State :=
  if s.fdc.command.seeks then
    if s.fdc.dataRegister = s.fdc.trackRegister then checkVerify { s with fdc.opStatus := .checkVerify }
    else stepPass { s with fdc.lastStepDirUp := decide (s.fdc.trackRegister < s.fdc.dataRegister) }
  else stepPass s

/-- The decode of state `Prepare` of Type I (R283). -/
def typeIDecode (s : State) : State :=
  { s with
    fdc.verify := verifyField s.fdc.commandRegister
    fdc.updateRegisters := s.fdc.command.seeks || updateField s.fdc.commandRegister
    fdc.trackRegister := if s.fdc.command = .restore then 0xFF#8 else s.fdc.trackRegister
    fdc.dataRegister := if s.fdc.command = .restore then 0x00#8 else s.fdc.dataRegister
    fdc.lastStepDirUp :=
      if s.fdc.command = .step then stepDirection s.fdc.commandRegister s.fdc.lastStepDirUp
      else s.fdc.lastStepDirUp }

/-- State `Prepare` of Type I (R283), which continues at `Step` in the same step. -/
def typeIPrepare (s : State) : State := typeIStep { typeIDecode s with fdc.opStatus := .step }

/-- State `VerifyTrack`, the header-complete rule of Type I (R292). -/
def verifyTrack (s : State) : Host.Outcome State Fault Refusal :=
  if s.fdc.readAddressData.track = s.fdc.trackRegister then .next (terminate s) else waitBytes 1 .seekingIDAM s

end Sys2Proof.Machine
end

