-- ==== Sys2Proof/Machine/TypeII.lean ====
section
/-! DEFINITION. The sequencer states of ReadSector and WriteSector (44_fdc_type2.md). -/

namespace Sys2Proof.Machine

/-- The decode of state `Prepare` of Type II (R310). -/
def typeIIDecode (s : State) : State :=
  { s with
    fdc.delay := delayField s.fdc.commandRegister
    fdc.sideSelectVerify := sideVerifyField s.fdc.commandRegister
    fdc.sideOneExpected := sideOneField s.fdc.commandRegister
    fdc.multipleRecords := multipleField s.fdc.commandRegister
    fdc.markSectorDeleted := s.fdc.command == .writeSector && deletedField s.fdc.commandRegister }

/-- A write command meets a protected drive (R330, 60_exceptions.md R449). -/
def raiseWriteProtected (s : State) : State := terminate { s with fdc.writeProtected := true }

/-- State `Prepare` of Type II (R310). -/
def typeIIPrepare (s : State) : Host.Outcome State Fault Refusal :=
  if s.fdc.command = .writeSector ∧ driveWP s then .next (raiseWriteProtected (typeIIDecode s))
  else delayOrSearch .seekingIDAM (typeIIDecode s)

/-- State `Delay` of Type II (R311). -/
def typeIIDelay : State → Host.Outcome State Fault Refusal := startSearch .seekingIDAM

/-- A matching header with a good CRC: the transfer begins (R315). -/
def beginTransfer (s : State) : Host.Outcome State Fault Refusal :=
  if s.fdc.command = .readSector then
    waitBytes 1 .seekingDAM
      { s with fdc.sectorLength := sectorLengthOf s.fdc.readAddressData.size, fdc.damBytesChecked := 0 }
  else
    waitBytes 8 .drqCheck
      { s with fdc.sectorLength := sectorLengthOf s.fdc.readAddressData.size, fdc.drq := true }

/-- The header-complete rule of Type II (R315, R316, R318). -/
def typeIIHeader (s : State) : Host.Outcome State Fault Refusal :=
  if !headerMatches s then waitBytes 1 .seekingIDAM s
  else if !crcMatches s then .next (terminate { s with fdc.crcError := true })
  else beginTransfer s

/-- The end of a record: the next sector with `multiple_records`, else the end of the command (R328, R339). -/
def endRecord (s : State) : Host.Outcome State Fault Refusal :=
  if s.fdc.multipleRecords then
    waitBytes 1 .seekingIDAM { s with fdc.sectorRegister := s.fdc.sectorRegister + 1#8 }
  else .next (terminate s)

/-! ## ReadSector -/

/-- The length of the DAM search window (R320). -/
def damWindow (s : State) : Nat := if s.fdc.doubleDensity then Config.damSearchDd else Config.damSearchSd

/-- The byte `b` looked at in state `SeekingDAM` (R320 to R322). -/
def seekingDAMByte (b : Byte) (s : State) : Host.Outcome State Fault Refusal :=
  if b = 0xFB#8 ∨ b = 0xF8#8 then
    waitBytes 1 .readingData { startCrc b s with fdc.sectorDeleted := b == 0xF8#8, fdc.bytesRead := 0 }
  else if damWindow s ≤ s.fdc.damBytesChecked then waitBytes 1 .seekingIDAM s
  else waitBytes 1 .seekingDAM s

/-- State `SeekingDAM` (R320). -/
def seekingDAM : State → Host.Outcome State Fault Refusal :=
  withHead fun s =>
    seekingDAMByte (trackByte s (trackDataIndex s))
      { afterTrackRead s with fdc.damBytesChecked := s.fdc.damBytesChecked + 1 }

/-- A data byte `b` delivered and counted (R325). -/
def deliverByte (b : Byte) (s : State) : State :=
  { offerByte b s with fdc.crc := crcByte s.fdc.crc b, fdc.bytesRead := s.fdc.bytesRead + 1 }

/-- After a data byte: the CRC follows the last one (R325). -/
def afterDataByte (s : State) : Host.Outcome State Fault Refusal :=
  if s.fdc.bytesRead = s.fdc.sectorLength then waitBytes 1 .readCRCHigh { s with fdc.crcCalc := s.fdc.crc }
  else waitBytes 1 .readingData s

/-- State `ReadingData` of ReadSector (R325). -/
def readSectorData : State → Host.Outcome State Fault Refusal :=
  withHead fun s => afterDataByte (deliverByte (trackByte s (trackDataIndex s)) (afterTrackRead s))

/-- State `ReadCRCHigh` (R326). -/
def readCRCHigh : State → Host.Outcome State Fault Refusal :=
  withHead fun s =>
    waitBytes 1 .readCRCLow { afterTrackRead s with fdc.crcHigh := trackByte s (trackDataIndex s) }

/-- The stored CRC is complete (R327). -/
def checkDataCrc (s : State) : Host.Outcome State Fault Refusal :=
  if !crcMatches s then .next (terminate { s with fdc.crcError := true }) else endRecord s

/-- State `ReadCRCLow` (R327). -/
def readCRCLow : State → Host.Outcome State Fault Refusal :=
  withHead fun s => checkDataCrc { afterTrackRead s with fdc.crcLow := trackByte s (trackDataIndex s) }

/-! ## WriteSector -/

/-- State `DrqCheck` (R331). -/
def drqCheck (s : State) : Host.Outcome State Fault Refusal :=
  if s.fdc.drq then .next (terminate { s with fdc.lostData := true })
  else waitBytes 1 .writeFiller { s with fdc.bytesToWrite := if s.fdc.doubleDensity then 12 else 6 }

/-- An unmarked byte written under the head and one counted off `bytes_to_write` (R332, R333). -/
def writeCounted (b : Byte) (s : State) : State :=
  { trackWrite (trackDataIndex s) b false s with fdc.bytesToWrite := s.fdc.bytesToWrite - 1 }

/-- State `WriteFiller` (R332). -/
def writeFiller : State → Host.Outcome State Fault Refusal :=
  withHead fun s =>
    let w := writeCounted 0x00#8 s
    if w.fdc.bytesToWrite = 0 then
      if w.fdc.doubleDensity then waitBytes 1 .writeSync { w with fdc.bytesToWrite := 3 }
      else waitBytes 1 .writeDAM w
    else waitBytes 1 .writeFiller w

/-- State `WriteSync` (R333). -/
def writeSync : State → Host.Outcome State Fault Refusal :=
  withHead fun s =>
    let w := writeCounted 0xA1#8 s
    if w.fdc.bytesToWrite = 0 then waitBytes 1 .writeDAM w else waitBytes 1 .writeSync w

/-- The data address mark WriteSector writes (R334). -/
def damByte (s : State) : Byte := if s.fdc.markSectorDeleted then 0xF8#8 else 0xFB#8

/-- State `WriteDAM` (R334). -/
def writeDAM : State → Host.Outcome State Fault Refusal :=
  withHead fun s =>
    waitBytes 1 .writingData
      { trackWrite (trackDataIndex s) (damByte s) false (startCrc (damByte s) s) with
        fdc.bytesToWrite := s.fdc.sectorLength }

/-- State `WritingData` of WriteSector (R336). -/
def writeSectorData : State → Host.Outcome State Fault Refusal :=
  withHead fun s =>
    let w := { writeCounted (takenByte s) (noteTaken s) with fdc.crc := crcByte s.fdc.crc (takenByte s) }
    if w.fdc.bytesToWrite = 0 then waitBytes 1 .writeCRCHigh { w with fdc.drq := false }
    else waitBytes 1 .writingData { w with fdc.drq := true }

/-- `crc_high <- crc[15:8]; crc_low <- crc[7:0]` (R337, 45_fdc_type3.md R385). -/
def splitCrc (s : State) : State :=
  { s with fdc.crcHigh := s.fdc.crc.extractLsb' 8 8, fdc.crcLow := s.fdc.crc.extractLsb' 0 8 }

/-- State `WriteCRCHigh` (R337). -/
def writeCRCHigh : State → Host.Outcome State Fault Refusal :=
  withHead fun s =>
    waitBytes 1 .writeCRCLow (trackWrite (trackDataIndex s) (splitCrc s).fdc.crcHigh false (splitCrc s))

/-- State `WriteCRCLow` of WriteSector (R338). -/
def writeSectorCRCLow : State → Host.Outcome State Fault Refusal :=
  withHead fun s => waitBytes 1 .writeTrailer (trackWrite (trackDataIndex s) s.fdc.crcLow false s)

/-- State `WriteTrailer` (R339). -/
def writeTrailer : State → Host.Outcome State Fault Refusal :=
  withHead fun s => endRecord (trackWrite (trackDataIndex s) 0xFF#8 false s)

end Sys2Proof.Machine
end

