-- ==== Sys2Proof/Machine/TypeIII.lean ====
section
/-! DEFINITION. The sequencer states of ReadAddress, ReadTrack and WriteTrack (45_fdc_type3.md). -/

namespace Sys2Proof.Machine

/-- The one decode flag of Type III (R360, R370, R380). -/
def typeIIIDecode (s : State) : State := { s with fdc.delay := delayField s.fdc.commandRegister }

/-! ## ReadAddress -/

/-- State `Prepare` of ReadAddress (R360). -/
def readAddressPrepare (s : State) : Host.Outcome State Fault Refusal := delayOrSearch .seekingIDAM (typeIIIDecode s)

/-- State `Delay` of ReadAddress (R361). -/
def readAddressDelay : State → Host.Outcome State Fault Refusal := startSearch .seekingIDAM

/-- The header-complete rule of ReadAddress (R363). -/
def readAddressHeader (s : State) : Host.Outcome State Fault Refusal :=
  .next (terminate
    { s with
      fdc.crcError := s.fdc.crcError || !crcMatches s
      fdc.trackRegister := s.fdc.readAddressData.track
      fdc.sectorRegister := s.fdc.readAddressData.sector })

/-- State `ReadingAddressData` of ReadAddress (R362): each byte is offered to the CPU, then stored by R261. -/
def readAddressByte : State → Host.Outcome State Fault Refusal :=
  withHead fun s =>
    headerByte (trackByte s (trackDataIndex s)) readAddressHeader
      (offerByte (trackByte s (trackDataIndex s)) (afterTrackRead s))

/-! ## ReadTrack -/

/-- State `Prepare` of ReadTrack (R370). -/
def readTrackPrepare (s : State) : Host.Outcome State Fault Refusal := delayOrSearch .seekingIndexHole (typeIIIDecode s)

/-- State `Delay` of ReadTrack and WriteTrack (R370, R380). -/
def trackDelay : State → Host.Outcome State Fault Refusal := startSearch .seekingIndexHole

/-- State `ReadingData` of ReadTrack (R372). -/
def readTrackData (s : State) : Host.Outcome State Fault Refusal :=
  if 1 ≤ indexesFound s then .next (terminate s)
  else
    withHead
      (fun s => waitBytes 1 .readingData (offerByte (trackByte s (trackDataIndex s)) (afterTrackRead s))) s

/-- State `SeekingIndexHole` of ReadTrack (R371). -/
def readTrackIndexHole (s : State) : Host.Outcome State Fault Refusal :=
  if 1 ≤ indexesFound s then readTrackData { resetIndexCount s with fdc.opStatus := .readingData }
  else waitBytes 1 .seekingIndexHole s

/-! ## WriteTrack -/

/-- State `Prepare` of WriteTrack (R380). -/
def writeTrackPrepare (s : State) : Host.Outcome State Fault Refusal :=
  if driveWP s then .next (raiseWriteProtected (typeIIIDecode s))
  else delayOrSearch .seekingIndexHole { typeIIIDecode s with fdc.drq := true }

/-- The bytes that reset the CRC in single density (R384). -/
def sdMark (b : Byte) : Bool :=
  b == 0xF8#8 || b == 0xF9#8 || b == 0xFA#8 || b == 0xFB#8 || b == 0xFD#8 || b == 0xFE#8

/-- What `Transform` makes of the CPU's byte: the byte written, the IDAM bit, and whether it is the CRC (R381). -/
structure Transformed where
  out : Byte
  mark : Bool
  isCrc : Bool
deriving DecidableEq, Repr

/-- The array byte just before the head (R383, 20_memory.md R69). -/
def byteBefore (s : State) : Byte := trackByte s ((trackDataIndex s + trackLen s - 1) % trackLen s)

/-- `Transform(b)`: the byte written and its mark (R383 in double density, R384 in single, R385 for 0xF7). -/
def transform (b : Byte) (s : State) : Transformed :=
  if b = 0xF7#8 then { out := (splitCrc s).fdc.crcHigh, mark := false, isCrc := true }
  else if s.fdc.doubleDensity then
    if b = 0xF5#8 then { out := 0xA1#8, mark := false, isCrc := false }
    else if b = 0xF6#8 then { out := 0xC2#8, mark := false, isCrc := false }
    else { out := b, mark := b == 0xFE#8 && byteBefore s == 0xA1#8, isCrc := false }
  else { out := b, mark := b == 0xFE#8, isCrc := false }

/-- The state after `Transform(b)`: the CRC (R383, R384), its split for 0xF7 (R385), and the draw of the look at the
byte before the head where no track is bound (R383, 20_memory.md R67). -/
def transformState (b : Byte) (s : State) : State :=
  if b = 0xF7#8 then splitCrc s
  else if s.fdc.doubleDensity then
    if b = 0xF5#8 then { s with fdc.crc := Config.crcResetA1A1A1 }
    else if b = 0xF6#8 then { s with fdc.crc := crcByte s.fdc.crc 0xC2#8 }
    else if b = 0xFE#8 then { afterTrackRead s with fdc.crc := crcByte s.fdc.crc b }
    else { s with fdc.crc := crcByte s.fdc.crc b }
  else if sdMark b then { s with fdc.crc := crcByte Config.crcReset b }
  else { s with fdc.crc := crcByte s.fdc.crc b }

/-- The byte `b` of the CPU's stream written to the track (R381). -/
def writeTrackByte (b : Byte) (s : State) : Host.Outcome State Fault Refusal :=
  let w := trackWrite (trackDataIndex s) (transform b s).out (transform b s).mark (transformState b s)
  if (transform b s).isCrc then waitBytes 1 .writeCRCLow { w with fdc.drq := false }
  else waitBytes 1 .writingData { w with fdc.drq := true }

/-- State `WritingData` of WriteTrack (R381). -/
def writeTrackData (s : State) : Host.Outcome State Fault Refusal :=
  if 1 ≤ indexesFound s then .next (terminate s)
  else withHead (fun s => writeTrackByte (takenByte s) (noteTaken s)) s

/-- State `SeekingIndexHole` of WriteTrack (R382). -/
def writeTrackIndexHole (s : State) : Host.Outcome State Fault Refusal :=
  if 1 ≤ indexesFound s then
    writeTrackData
      { resetIndexCount s with fdc.crc := crcPreset s.fdc.doubleDensity, fdc.opStatus := .writingData }
  else waitBytes 1 .seekingIndexHole s

/-- State `WriteCRCLow` of WriteTrack (R386). -/
def writeTrackCRCLow (s : State) : Host.Outcome State Fault Refusal :=
  if 1 ≤ indexesFound s then .next (terminate s)
  else
    withHead
      (fun s =>
        waitBytes 1 .writingData { trackWrite (trackDataIndex s) s.fdc.crcLow false s with fdc.drq := true }) s

end Sys2Proof.Machine
end

