-- ==== Sys2Proof/Machine/Sequencer.lean ====
section
/-! DEFINITION. The dispatch of the FDC sequencer (42_fdc_ports_dispatch.md R241) and the callbacks of the scheduler
(40_clock_scheduler.md R141, R153). -/

namespace Sys2Proof.Machine

/-- A pair (`command`, `op_status`) that the table of R241 does not hold. -/
def unreachableState : Host.Outcome State Fault Refusal := .refused .unreachableSequencerState

/-- The rows of R241 for Restore, Seek and Step. -/
def typeIAdvance (s : State) : Host.Outcome State Fault Refusal :=
  match s.fdc.opStatus with
  | .prepare => .next (typeIPrepare s)
  | .step => .next (typeIStep s)
  | .checkVerify => .next (checkVerify s)
  | .seekingIDAM => seekingIDAM s
  | .readingAddressData => readingAddressData verifyTrack s
  | _ => unreachableState

/-- The rows of R241 for ReadSector. -/
def readSectorAdvance (s : State) : Host.Outcome State Fault Refusal :=
  match s.fdc.opStatus with
  | .prepare => typeIIPrepare s
  | .delay => typeIIDelay s
  | .seekingIDAM => seekingIDAM s
  | .readingAddressData => readingAddressData typeIIHeader s
  | .seekingDAM => seekingDAM s
  | .readingData => readSectorData s
  | .readCRCHigh => readCRCHigh s
  | .readCRCLow => readCRCLow s
  | _ => unreachableState

/-- The rows of R241 for WriteSector. -/
def writeSectorAdvance (s : State) : Host.Outcome State Fault Refusal :=
  match s.fdc.opStatus with
  | .prepare => typeIIPrepare s
  | .delay => typeIIDelay s
  | .seekingIDAM => seekingIDAM s
  | .readingAddressData => readingAddressData typeIIHeader s
  | .drqCheck => drqCheck s
  | .writeFiller => writeFiller s
  | .writeSync => writeSync s
  | .writeDAM => writeDAM s
  | .writingData => writeSectorData s
  | .writeCRCHigh => writeCRCHigh s
  | .writeCRCLow => writeSectorCRCLow s
  | .writeTrailer => writeTrailer s
  | _ => unreachableState

/-- The rows of R241 for ReadAddress. -/
def readAddressAdvance (s : State) : Host.Outcome State Fault Refusal :=
  match s.fdc.opStatus with
  | .prepare => readAddressPrepare s
  | .delay => readAddressDelay s
  | .seekingIDAM => seekingIDAM s
  | .readingAddressData => readAddressByte s
  | _ => unreachableState

/-- The rows of R241 for ReadTrack. -/
def readTrackAdvance (s : State) : Host.Outcome State Fault Refusal :=
  match s.fdc.opStatus with
  | .prepare => readTrackPrepare s
  | .delay => trackDelay s
  | .seekingIndexHole => readTrackIndexHole s
  | .readingData => readTrackData s
  | _ => unreachableState

/-- The rows of R241 for WriteTrack. -/
def writeTrackAdvance (s : State) : Host.Outcome State Fault Refusal :=
  match s.fdc.opStatus with
  | .prepare => writeTrackPrepare s
  | .delay => trackDelay s
  | .seekingIndexHole => writeTrackIndexHole s
  | .writingData => writeTrackData s
  | .writeCRCLow => writeTrackCRCLow s
  | _ => unreachableState

/-- The advance function of the command's family (R241). -/
def commandAdvance (s : State) : Host.Outcome State Fault Refusal :=
  match s.fdc.command with
  | .restore | .seek | .step => typeIAdvance s
  | .readSector => readSectorAdvance s
  | .writeSector => writeSectorAdvance s
  | .readAddress => readAddressAdvance s
  | .readTrack => readTrackAdvance s
  | .writeTrack => writeTrackAdvance s
  | .reset | .forceInterrupt | .forceInterruptImmediate => unreachableState

/-- `FdcAdvance()` (R241). -/
def fdcAdvance (s : State) : Host.Outcome State Fault Refusal :=
  match s.fdc.opStatus with
  | .nmi => .next (nmiState s)
  | .opDone => .next s
  | _ => commandAdvance s

/-- The ghost event of a missed polling target (60_exceptions.md R447). -/
def noteSync (s : State) : State :=
  if trackDataIndex s = s.fdc.targetDataIndex then s else emit .syncFault s

/-- `Poll` (R153). -/
def poll (s : State) : Host.Outcome State Fault Refusal :=
  fdcAdvance { noteSync s with fdc.isPolling := false, fdc.nextCallback := none }

/-- `MotorOnCallback` (R251). -/
def motorOnCallback (s : State) : State :=
  register .motorOff .microseconds Config.motorOffDelayUs .motorOffCallback
    (emit (.driveMotorRunning true) { s with fdc.motorOn := true })

/-- `MotorOffCallback` (R252). -/
def motorOffCallback (s : State) : State :=
  latch .fdcMotorOffNmi (emit (.driveMotorRunning false) { s with fdc.motorOn := false })

/-- A callback runs to completion (10_state.md R38, 40_clock_scheduler.md R141). -/
def runCallback (cb : Callback) (s : State) : Host.Outcome State Fault Refusal :=
  match cb with
  | .fdcAdvance => fdcAdvance s
  | .poll => poll s
  | .motorOnCallback => .next (motorOnCallback s)
  | .motorOffCallback => .next (motorOffCallback s)
  | .cassetteReadCallback => cassetteReadCallback s

/-- `Fire` (R141): the due request with the least (trigger, seq) is taken and its callback runs. -/
def fire (s : State) : Host.Outcome State Fault Refusal :=
  match nextDue s with
  | none => .refused .fireNotEnabled
  | some q => runCallback (s.sched.get q).callback (expire q s)

end Sys2Proof.Machine
end

