-- ==== Sys2Proof/Machine/Commands.lean ====
section
/-! DEFINITION. The meaning of every command byte: what its write to port 0xF0 does (42_fdc_ports_dispatch.md R230, R240
and 46_fdc_type4.md R401 to R404). The rest of a command runs in the scheduler's firings (Sequencer). -/

namespace Sys2Proof.Machine

/-- `StartCommand(v, c)` up to its `FdcAdvance()` (R240). -/
def acceptCommand (v : Byte) (c : Command) (s : State) : State :=
  { startFlags (acknowledgeNmi s) with fdc.commandRegister := v, fdc.command := c, fdc.opStatus := .prepare }

/-- The write of a Type I, II or III command byte (R230, R240; ignored while disabled, 20_memory.md R64). -/
def startCommand (v : Byte) (c : Command) (s : State) : Host.Outcome State Fault Refusal :=
  if !s.fdc.enabled then .next s
  else if s.fdc.busy then .refused .commandWhileBusy
  else fdcAdvance (acceptCommand v c s)

/-- `TypeIV(v, c)`: the abort common to the three (R401). -/
def abortCommand (v : Byte) (c : Command) (s : State) : State :=
  { expire .command s with
    fdc.commandRegister := v, fdc.command := c, fdc.isPolling := false, fdc.nextCallback := none
    fdc.opStatus := .opDone }

/-- The write of a `Reset` byte (R402). -/
def writeReset (v : Byte) (s : State) : Host.Outcome State Fault Refusal :=
  if !s.fdc.enabled then .next s
  else .next { abortCommand v .reset s with fdc.busy := false, fdc.drq := false }

/-- The write of a `ForceInterrupt` or `ForceInterruptImmediate` byte (R403, R404). -/
def writeForceInterrupt (v : Byte) (c : Command) (s : State) : Host.Outcome State Fault Refusal :=
  if !s.fdc.enabled then .next s else .next (doNmi (abortCommand v c s))

/-! ## Type I -/

/-- RESTORE (R281). -/
def execRestore (h v : Bool) (r : BitVec 2) (s : State) : Host.Outcome State Fault Refusal :=
  startCommand (encodeByte (.restore h v r)) .restore s

/-- SEEK (R282). -/
def execSeek (h v : Bool) (r : BitVec 2) (s : State) : Host.Outcome State Fault Refusal :=
  startCommand (encodeByte (.seek h v r)) .seek s

/-- STEP (R294). -/
def execStep (u h v : Bool) (r : BitVec 2) (s : State) : Host.Outcome State Fault Refusal :=
  startCommand (encodeByte (.step u h v r)) .step s

/-- STEPIN (R295). -/
def execStepIn (u h v : Bool) (r : BitVec 2) (s : State) : Host.Outcome State Fault Refusal :=
  startCommand (encodeByte (.stepIn u h v r)) .step s

/-- STEPOUT (R296). -/
def execStepOut (u h v : Bool) (r : BitVec 2) (s : State) : Host.Outcome State Fault Refusal :=
  startCommand (encodeByte (.stepOut u h v r)) .step s

/-! ## Type II -/

/-- RDSEC (R345). -/
def execRdsec (m sd e c x : Bool) (s : State) : Host.Outcome State Fault Refusal :=
  startCommand (encodeByte (.rdsec m sd e c x)) .readSector s

/-- WRSEC (R346). -/
def execWrsec (m sd e c a0 : Bool) (s : State) : Host.Outcome State Fault Refusal :=
  startCommand (encodeByte (.wrsec m sd e c a0)) .writeSector s

/-! ## Type III -/

/-- RDADDR (R364). -/
def execRdaddr (x3 e : Bool) (x10 : BitVec 2) (s : State) : Host.Outcome State Fault Refusal :=
  startCommand (encodeByte (.rdaddr x3 e x10)) .readAddress s

/-- RDTRK (R373). -/
def execRdtrk (x3 e : Bool) (x10 : BitVec 2) (s : State) : Host.Outcome State Fault Refusal :=
  startCommand (encodeByte (.rdtrk x3 e x10)) .readTrack s

/-- WRTRK (R387). -/
def execWrtrk (x3 e : Bool) (x10 : BitVec 2) (s : State) : Host.Outcome State Fault Refusal :=
  startCommand (encodeByte (.wrtrk x3 e x10)) .writeTrack s

/-! ## Type IV -/

/-- RESET (R402). -/
def execReset (s : State) : Host.Outcome State Fault Refusal := writeReset (encodeByte .reset) s

/-- FORCEINTIMM (R403). -/
def execForceintimm (s : State) : Host.Outcome State Fault Refusal :=
  writeForceInterrupt (encodeByte .forceintimm) .forceInterruptImmediate s

/-- FORCEINT, row 0xD1 (R404). -/
def execForceintD1 (s : State) : Host.Outcome State Fault Refusal :=
  writeForceInterrupt (encodeByte .forceintD1) .forceInterrupt s

/-- FORCEINT, row 0xD2 to 0xD3 (R404). -/
def execForceintD2 (x : Bool) (s : State) : Host.Outcome State Fault Refusal :=
  writeForceInterrupt (encodeByte (.forceintD2 x)) .forceInterrupt s

/-- FORCEINT, row 0xD4 to 0xD7 (R404). -/
def execForceintD4 (x : BitVec 2) (s : State) : Host.Outcome State Fault Refusal :=
  writeForceInterrupt (encodeByte (.forceintD4 x)) .forceInterrupt s

/-- FORCEINT, row 0xD9 (R404). -/
def execForceintD9 (s : State) : Host.Outcome State Fault Refusal :=
  writeForceInterrupt (encodeByte .forceintD9) .forceInterrupt s

/-- FORCEINT, row 0xDA to 0xDB (R404). -/
def execForceintDA (x : Bool) (s : State) : Host.Outcome State Fault Refusal :=
  writeForceInterrupt (encodeByte (.forceintDA x)) .forceInterrupt s

/-- FORCEINT, row 0xDC to 0xDF (R404). -/
def execForceintDC (x : BitVec 2) (s : State) : Host.Outcome State Fault Refusal :=
  writeForceInterrupt (encodeByte (.forceintDC x)) .forceInterrupt s

end Sys2Proof.Machine
end

