-- ==== Sys2Proof/Machine/Dispatch.lean ====
section
/-! DEFINITION. One arm per constructor of Instr: the write of that command byte to port 0xF0. -/

namespace Sys2Proof.Machine

def exec (i : Instr) (s : State) : Host.Outcome State Fault Refusal :=
  match i with
  | .restore h v r => Sys2Proof.Machine.execRestore h v r s
  | .seek h v r => Sys2Proof.Machine.execSeek h v r s
  | .step u h v r => Sys2Proof.Machine.execStep u h v r s
  | .stepIn u h v r => Sys2Proof.Machine.execStepIn u h v r s
  | .stepOut u h v r => Sys2Proof.Machine.execStepOut u h v r s
  | .rdsec m sd e c x => Sys2Proof.Machine.execRdsec m sd e c x s
  | .wrsec m sd e c a0 => Sys2Proof.Machine.execWrsec m sd e c a0 s
  | .rdaddr x3 e x10 => Sys2Proof.Machine.execRdaddr x3 e x10 s
  | .reset => Sys2Proof.Machine.execReset s
  | .forceintD1 => Sys2Proof.Machine.execForceintD1 s
  | .forceintD2 x => Sys2Proof.Machine.execForceintD2 x s
  | .forceintD4 x => Sys2Proof.Machine.execForceintD4 x s
  | .forceintimm => Sys2Proof.Machine.execForceintimm s
  | .forceintD9 => Sys2Proof.Machine.execForceintD9 s
  | .forceintDA x => Sys2Proof.Machine.execForceintDA x s
  | .forceintDC x => Sys2Proof.Machine.execForceintDC x s
  | .rdtrk x3 e x10 => Sys2Proof.Machine.execRdtrk x3 e x10 s
  | .wrtrk x3 e x10 => Sys2Proof.Machine.execWrtrk x3 e x10 s

end Sys2Proof.Machine
end

