-- ==== Sys2Proof/Machine/Ports.lean ====
section
/-! DEFINITION. The port space: what each access of the CPU does (20_memory.md R62 to R65, 42_fdc_ports_dispatch.md R230
to R237, R245, 41_cassette.md R185, R190). -/

namespace Sys2Proof.Machine

/-- Port 0xF0 written: the byte is decoded and the command runs (R230). -/
def writeCommandPort (v : Byte) (s : State) : Host.Outcome State Fault Refusal :=
  match decode [v] with
  | .ok (i, _) => exec i s
  | .error _ => .refused .undecodableCommand

/-- A write that a disabled FDC ignores (20_memory.md R64). -/
def fdcWrite (f : State → State) (s : State) : Host.Outcome State Fault Refusal :=
  .next (if s.fdc.enabled then f s else s)

/-- The motor timers at a drive select (R245). -/
def selectMotor (s : State) : State :=
  if s.fdc.motorOn then register .motorOff .microseconds Config.motorOffDelayUs .motorOffCallback s
  else if s.sched.motorOn.active then s
  else register .motorOn .microseconds Config.motorOnDelayUs .motorOnCallback s

/-- `PortOut(0xF4, v)` of an enabled FDC (R245, 30_encoding.md R106). -/
def selectDrive (v : Byte) (s : State) : State :=
  let selected :=
    { s with
      fdc.currentDrive := selectedDrive v, fdc.sideOneSelected := bitAt v 4, fdc.doubleDensity := bitAt v 7 }
  selectMotor (if bitAt v 6 then emit .cpuWait selected else selected)

/-- `PortOut(p, v)` (R62). Ports 0xE4 to 0xE7 are routed to the interrupt manager and change no state (R65; assumption
log 12). -/
def portOut (p v : Byte) (s : State) : Host.Outcome State Fault Refusal :=
  if p = 0xF0#8 then writeCommandPort v s
  else if p = 0xF1#8 then fdcWrite (fun s => { s with fdc.trackRegister := v }) s
  else if p = 0xF2#8 then fdcWrite (fun s => { s with fdc.sectorRegister := v }) s
  else if p = 0xF3#8 then fdcWrite (fun s => { s with fdc.dataRegister := v, fdc.drq := false }) s
  else if p = 0xF4#8 then fdcWrite (selectDrive v) s
  else if p = 0xE4#8 ∨ p = 0xE5#8 ∨ p = 0xE6#8 ∨ p = 0xE7#8 then .next (emit (.interruptEnable p v) s)
  else if p = s.params.cassettePort then cassetteWrite v s
  else .refused .portNotOfTheBlock

/-- A read of an FDC register: the value and the state after it, or 0xFF and no effect while disabled (R64). -/
def fdcRead (p : Byte) (value : Byte) (after : State → State) (s : State) : Host.Outcome State Fault Refusal :=
  if s.fdc.enabled then .next (emit (.busRead p value) (after s)) else .next (emit (.busRead p 0xFF#8) s)

/-- `PortIn(p)` (R62): the byte leaves as an output. -/
def portIn (p : Byte) (s : State) : Host.Outcome State Fault Refusal :=
  if p = 0xF0#8 then fdcRead p (statusByte s) acknowledgeNmi s
  else if p = 0xF1#8 then fdcRead p s.fdc.trackRegister id s
  else if p = 0xF2#8 then fdcRead p s.fdc.sectorRegister id s
  else if p = 0xF3#8 then fdcRead p s.fdc.dataRegister (fun s => { s with fdc.drq := false }) s
  else if p = 0xF4#8 ∨ p = 0xE4#8 ∨ p = 0xE5#8 ∨ p = 0xE6#8 ∨ p = 0xE7#8 then .refused .portNotOfTheBlock
  else if p = s.params.cassettePort then .next (emit (.busRead p (cassettePortByte s.cas)) (afterCassetteRead s))
  else .refused .portNotOfTheBlock

end Sys2Proof.Machine
end

