-- ==== Sys2Proof/Machine/Inputs.lean ====
section
/-! DEFINITION. The steps of the three agents (00_scope.md R12, 10_state.md R20): an input performed, and what the block
does by itself with no input waiting. -/

namespace Sys2Proof.Machine

/-- A media change on a drive (10_state.md R29, 70_reset_and_hazards.md R496). -/
def mediaChange (d : DriveId) (floppy : Option FloppyImage) (wp : Bool) (s : State) : Host.Outcome State Fault Refusal :=
  if floppyWf floppy then
    .next { s with drives := s.drives.set d { s.drives.get d with floppy := floppy, writeProtected := wp } }
  else .refused .malformedMedia

/-- The platform reset: the whole state takes its reset values; the configuration, the inputs still to come and the count
of draws are not the block's state (R480; assumption log 16). DESIGN CHOICE, unsafe for a claim that counts events across a
reset: the step emits neither `drive_motor_running(false)` nor `track_step`, also where it turns `motor_on` off or returns a
`physical_track` to 0, a point that R156 and R480 leave open (assumption log 16). -/
def platformReset (s : State) : State := { State.resetWith s.params with inputs := s.inputs, draws := s.draws }

/-- One input performed. -/
def perform (i : Input) (s : State) : Host.Outcome State Fault Refusal :=
  match i with
  | .portOut p v => portOut p v s
  | .portIn p => portIn p s
  | .fire => fire s
  | .advance d => advance d s
  | .setMotorSignal b => setMotorSignal b s
  | .play => play s
  | .record => record s
  | .stop => .next (stopTape s)
  | .rewind => rewind s
  | .insertTape bytes => insertTape bytes s
  | .unlatch l => .next (unlatch l s)
  | .mediaChange d floppy wp => mediaChange d floppy wp s
  | .platformReset => .next (platformReset s)

/-- How far the clock goes by itself with nothing due: to the earliest trigger, or one tick with no request active
(assumption log 3). -/
def idleTicks (s : State) : Nat :=
  match nextActive s with
  | none => 1
  | some q => (s.sched.get q).trigger - s.tickCount

/-- The step with no input waiting: `Fire` if a request is due, else `Advance` (40_clock_scheduler.md R131, R141, R142;
assumption log 3). -/
def idle (s : State) : Host.Outcome State Fault Refusal :=
  match nextDue s with
  | some _ => fire s
  | none => advance (idleTicks s) s

/-- The state a step acts on: the input it takes is gone and the outputs of the last step are gone. -/
def beginStep (rest : List Input) (s : State) : State := { s with inputs := rest, outputs := [] }

/-- One step of the machine. -/
def runStep (s : State) : Host.Outcome State Fault Refusal :=
  match s.inputs with
  | [] => idle (beginStep [] s)
  | i :: rest => perform i (beginStep rest s)

/-- The input by which the CPU writes a table word's command byte to port 0xF0. -/
def commandInput (nbits w : Nat) : Input := .portOut 0xF0#8 ((tableBytes nbits w).headD 0x00#8)

end Sys2Proof.Machine
end

