-- ==== Sys2Proof/Machine/Step.lean ====
section
/-! DEFINITION. The machine's step, and where it takes its next command from (assumption log 2). -/

namespace Sys2Proof.Machine

/-- One step: the oldest waiting input, or the block by itself. -/
def step (s : State) : Host.Outcome State Fault Refusal := runStep s

/-- `s` with the write of this command byte to port 0xF0 as its next input. -/
def State.withFetchWord (s : State) (nbits w : Nat) : State := { s with inputs := commandInput nbits w :: s.inputs }

end Sys2Proof.Machine
end

