-- ==== Sys2Proof/Safety.lean ====
section
/-! DEFINITION. What counts as a sound state: the invariants of 10_state.md R35 and R46 and those the scheduler's rules
give, in the terms the claims use. -/

namespace Sys2Proof.Machine

/-- The table of 42_fdc_ports_dispatch.md R241 holds the pair of a running command. -/
def dispatchHolds (c : Command) (st : OpStatus) : Bool :=
  match c, st with
  | .reset, _ | .forceInterrupt, _ | .forceInterruptImmediate, _ => false
  | _, .nmi => true
  | .restore, st | .seek, st | .step, st =>
    match st with
    | .step | .checkVerify | .seekingIDAM | .readingAddressData => true
    | _ => false
  | .readSector, st =>
    match st with
    | .delay | .seekingIDAM | .readingAddressData | .seekingDAM | .readingData | .readCRCHigh | .readCRCLow => true
    | _ => false
  | .writeSector, st =>
    match st with
    | .delay | .seekingIDAM | .readingAddressData | .drqCheck | .writeFiller | .writeSync | .writeDAM | .writingData
    | .writeCRCHigh | .writeCRCLow | .writeTrailer => true
    | _ => false
  | .readAddress, st =>
    match st with
    | .delay | .seekingIDAM | .readingAddressData => true
    | _ => false
  | .readTrack, st =>
    match st with
    | .delay | .seekingIndexHole | .readingData => true
    | _ => false
  | .writeTrack, st =>
    match st with
    | .delay | .seekingIndexHole | .writingData | .writeCRCLow => true
    | _ => false

/-- Every active request carries its own callback (10_state.md R33, R38): the command request `Poll` exactly while
polling. -/
structure RequestsInv (s : State) : Prop where
  command : s.sched.command.active = true →
    s.sched.command.callback = if s.fdc.isPolling then Callback.poll else Callback.fdcAdvance
  motorOn : s.sched.motorOn.active = true → s.sched.motorOn.callback = .motorOnCallback
  motorOff : s.sched.motorOff.active = true → s.sched.motorOff.callback = .motorOffCallback
  read : s.sched.read.active = true → s.sched.read.callback = .cassetteReadCallback

/-- The clock: 64 bits (00_scope.md R10), never past an active trigger by more than `MAX_LATENESS`
(40_clock_scheduler.md R131, R142), and registration numbers below the counter (R134). -/
structure ClockInv (s : State) : Prop where
  width : s.tickCount < Config.tickLimit
  notLate : ∀ q, (s.sched.get q).active = true → s.tickCount ≤ (s.sched.get q).trigger + s.params.maxLateness
  numbered : ∀ q, (s.sched.get q).active = true → (s.sched.get q).seq < s.sched.nextSeq

/-- The FDC's invariants. -/
structure FdcInv (s : State) : Prop where
  /-- R35 (a), first half. -/
  busyIff : s.fdc.busy = true ↔ s.fdc.opStatus ≠ .opDone
  /-- R35 (a), second half. -/
  requestBusy : s.sched.command.active = true → s.fdc.busy = true
  /-- A busy FDC always has its next run pending. -/
  busyRequest : s.fdc.busy = true → s.sched.command.active = true
  /-- R35 (b). -/
  drqTransfer : s.fdc.drq = true → s.fdc.busy = true ∧ s.fdc.command.transfers = true
  /-- R35 (c). -/
  tracks : ∀ d, (s.drives.get d).physicalTrack ≤ Config.maxTracks
  /-- R35 (d). -/
  polling : s.fdc.isPolling = true → s.sched.command.active = true ∧ s.sched.command.callback = .poll
  /-- R32: the continuation is held exactly while polling. -/
  continuation : s.fdc.nextCallback = if s.fdc.isPolling then some .fdcAdvance else none
  /-- The table of R241 holds every pair that occurs. -/
  dispatch : s.fdc.busy = true → dispatchHolds s.fdc.command s.fdc.opStatus = true

/-- The cassette's invariants (R42, R46). -/
structure CassetteInv (s : State) : Prop where
  bitCursor : s.cas.bitCursor ≤ 7
  byteCursor : s.cas.byteCursor < s.cas.data.size
  length : s.cas.data.size ≤ Config.maxTapeLength
  canonical : s.cas.data.wf = true
  /-- R42: `motor_on` is kept equal to `motor_engaged and motor_on_signal`. -/
  motor : s.cas.motorOn = (s.cas.motorEngaged && s.cas.motorOnSignal)
  /-- `is_blank` implies all bytes are zero: no cell is listed. -/
  blank : s.cas.isBlank = true → s.cas.data.cells = []
  evidence : -16 ≤ s.cas.highSpeedWriteEvidence ∧ s.cas.highSpeedWriteEvidence ≤ 16
  transition : s.cas.transition.isSome = true → s.cas.motorOn = true ∧ s.cas.recordInvoked = false
  readRequest : s.sched.read.active = true → s.cas.transition.isSome = true

/-- Every floppy image in a drive is well formed (20_memory.md R60). -/
def MediaInv (s : State) : Prop := ∀ d, floppyWf (s.drives.get d).floppy = true

/-- The whole invariant of the machine. -/
structure Inv (s : State) : Prop where
  requests : RequestsInv s
  clock : ClockInv s
  fdc : FdcInv s
  cassette : CassetteInv s
  media : MediaInv s

/-- The next input is an environment step that replaces the whole state (70_reset_and_hazards.md R480). -/
def resetsNext (s : State) : Bool := s.inputs.head? == some .platformReset

/-- The next input is a media change (00_scope.md R12). -/
def changesMediaNext (s : State) : Bool :=
  match s.inputs.head? with
  | some (.mediaChange _ _ _) => true
  | _ => false

/-- A step that only says that the environment asked for something that is not enabled or has no meaning (R131, R141, R174,
R188, R62) or that the clock is at its end: a refusal of an input, not a stop of the machine. -/
def Refusal.ofInput : Refusal → Bool
  | .advanceNotEnabled | .fireNotEnabled | .deckNotEnabled | .malformedTape | .malformedMedia | .portNotOfTheBlock
  | .commandWhileBusy | .oddTrackLength | .tickOverflow => true
  | _ => false

end Sys2Proof.Machine
end

