-- ==== Sys2Proof/Certificates/Slice0/Obligations.lean ====
section
/-! DEFINITION. The statements for the provers. The state a statement promises is written out here from the rules, field by
field, so that an equation with it says what changes and that nothing else does. -/

namespace Sys2Proof.Claims

open Sys2Proof.Machine

/-! ## What the rules promise, written out -/

/-- The FDC right after a command start: the byte and the command noted, six flags cleared, `busy` set (R240). -/
def started (v : Byte) (c : Command) (f : Fdc) : Fdc :=
  { f with
    commandRegister := v, command := c, busy := true, drq := false, lostData := false, seekError := false
    crcError := false, sectorDeleted := false, writeProtected := false }

/-- The FDC right after a Type IV byte: the byte and the command noted, the sequencer idle (R401). -/
def aborted (v : Byte) (c : Command) (f : Fdc) : Fdc :=
  { f with
    commandRegister := v, command := c, isPolling := false, nextCallback := none, opStatus := .opDone, busy := false
    drq := false }

/-- `s` with the FDC `f` after `WaitTime(us, st)` (R150): the command request aims `us` microseconds ahead, converted with
floor (R133), under the next registration number (R134). -/
def timeWait (us : Nat) (st : OpStatus) (f : Fdc) (s : State) : State :=
  { s with
    fdc := { f with isPolling := false, nextCallback := none, opStatus := st }
    sched :=
      { s.sched with
        nextSeq := s.sched.nextSeq + 1
        command :=
          { active := true, trigger := s.tickCount + us * s.params.tps / 1000000, seq := s.sched.nextSeq
            basis := .microseconds, delay := us, callback := .fdcAdvance } } }

/-- `s` with the FDC `f` after `WaitBytes(n, st)` (R152): the command request aims at the target cell, with `Poll`. -/
def byteWait (n : Nat) (st : OpStatus) (f : Fdc) (s : State) : State :=
  { s with
    fdc :=
      { f with
        isPolling := true, nextCallback := some .fdcAdvance, opStatus := st, targetDataIndex := byteWaitTarget n s }
    sched :=
      { s.sched with
        nextSeq := s.sched.nextSeq + 1
        command :=
          { active := true, trigger := s.tickCount + byteWaitDelay (byteWaitTarget n s) s, seq := s.sched.nextSeq
            basis := .ticks, delay := byteWaitDelay (byteWaitTarget n s) s, callback := .poll } } }

/-- The tick `ResetIndexCount()` sets (R147). -/
def indexStart (s : State) : Nat := s.tickCount - s.tickCount % (s.params.tps / 5) + 10

/-- `s` with `FdcNmi` unlatched (R240). -/
def acknowledged (s : State) : State := { s with latches := { s.latches with fdcNmi := false } }

/-- `s` with the FDC `f` where a search with the optional delay begins, in state `st` (R310, R360, R370). -/
def searchBegins (delay : Bool) (st : OpStatus) (f : Fdc) (s : State) : State :=
  if delay then timeWait s.params.delayFlagUs .delay f s
  else byteWait 1 st { f with indexCheckStartTick := indexStart s } s

/-- The head can move: a drive is selected and stands below 80 (up) or above 0 (down) (R287, R288). -/
def headMoves (up : Bool) (s : State) : Bool :=
  match s.fdc.currentDrive with
  | none => false
  | some d => if up then decide ((s.drives.get d).physicalTrack < 80) else decide (0 < (s.drives.get d).physicalTrack)

/-- The drives after one step of the selected head (R287, R288). -/
def steppedDrives (up : Bool) (s : State) : Drives :=
  match s.fdc.currentDrive with
  | none => s.drives
  | some d =>
    s.drives.set d
      { s.drives.get d with
        physicalTrack :=
          if up then
            (if (s.drives.get d).physicalTrack < 80 then (s.drives.get d).physicalTrack + 1
              else (s.drives.get d).physicalTrack)
          else (s.drives.get d).physicalTrack - 1 }

/-- A step down ends on track 0: a drive is selected and stands on track 1 or 0 (R285, R288). -/
def endsOnTrackZero (up : Bool) (s : State) : Bool :=
  match s.fdc.currentDrive with
  | none => false
  | some d => !up && decide ((s.drives.get d).physicalTrack ≤ 1)

/-- `s` with the FDC `f` after one pass of state `Step` in the direction `f.lastStepDirUp` (R285): the counter counts
modulo 256 with `update_registers`, the head moves, track 0 while stepping down forces the counter to 0, and one
step-rate delay follows. -/
def stepPassed (us : Nat) (f : Fdc) (s : State) : State :=
  { timeWait us
      (if endsOnTrackZero f.lastStepDirUp s || f.command == .step then .checkVerify else .step)
      { f with
        trackRegister :=
          if endsOnTrackZero f.lastStepDirUp s then 0x00#8
          else if f.updateRegisters then
            (if f.lastStepDirUp then f.trackRegister + 1#8 else f.trackRegister - 1#8)
          else f.trackRegister }
      s with
    drives := steppedDrives f.lastStepDirUp s
    outputs := s.outputs ++ (if headMoves f.lastStepDirUp s then [Output.trackStep] else []) }

/-- `s` with the FDC `f` after state `CheckVerify` (R290). -/
def verifyChecked (f : Fdc) (s : State) : State :=
  if f.verify then timeWait 30000 .seekingIDAM { f with indexCheckStartTick := indexStart s } s
  else timeWait 30030 .nmi f s

/-- The head can address the track: it has a byte, and an even number of them in single density (R72). -/
abbrev HeadOk (s : State) : Prop := 1 ≤ trackLen s ∧ (s.fdc.doubleDensity = false → trackLen s % 2 = 0)

/-- The FDC accepts a Type I, II or III command (R64, R230). -/
abbrev Ready (s : State) : Prop := s.fdc.enabled = true ∧ s.fdc.busy = false

/-- The byte `TrackRead(TrackDataIndex)` answers (R67): with no bound track the next free value. -/
def headByte (s : State) : Byte :=
  match boundTrack s with
  | some tr => tr.data.byteAt (trackDataIndex s)
  | none => Config.freeByte s.draws

/-- `s` after one `TrackRead`: with no bound track one draw is taken (R67). -/
def counted (s : State) : State := { s with draws := if (boundTrack s).isSome then s.draws else s.draws + 1 }

/-- `HasIdam(TrackDataIndex)` (R70). -/
def IdamUnderHead (s : State) : Prop := ∃ tr, boundTrack s = some tr ∧ trackDataIndex s ∈ tr.idam

/-- The microseconds of a step rate: 6, 12, 20 or 30 ms (R91, R285). -/
def stepUs (r : BitVec 2) : Nat := if r = 0#2 then 6000 else if r = 1#2 then 12000 else if r = 2#2 then 20000 else 30000

/-- `s` with the FDC `f` after `Terminate()` (R441): state `NMI`, 30 µs ahead. -/
def terminated (f : Fdc) (s : State) : State := timeWait 30 .nmi f s

/-- The commands whose sequencer searches for a header (R241). -/
def searches (c : Command) : Bool :=
  c == .restore || c == .seek || c == .step || c == .readSector || c == .writeSector || c == .readAddress

/-- The Type I commands (R91). -/
def isTypeI (c : Command) : Bool := c == .restore || c == .seek || c == .step

/-- The FDC with byte `b` stored as byte `k` of the header, `k` below 5 (R261). -/
def headerStored (k : Nat) (b : Byte) (f : Fdc) : Fdc :=
  { f with
    readAddressData :=
      { track := if k = 0 then b else f.readAddressData.track
        side := if k = 1 then b else f.readAddressData.side
        sector := if k = 2 then b else f.readAddressData.sector
        size := if k = 3 then b else f.readAddressData.size
        crcHi := if k = 4 then b else f.readAddressData.crcHi
        crcLo := f.readAddressData.crcLo }
    crc := if k < 4 then crcByte f.crc b else f.crc
    crcCalc := if k = 3 then crcByte f.crc b else f.crcCalc
    readAddressIndex := k + 1 }

/-- The FDC with byte `b` stored as the sixth byte of the header and the stored CRC captured (R261). -/
def headerComplete (b : Byte) (f : Fdc) : Fdc :=
  { f with
    readAddressData := { f.readAddressData with crcLo := b }
    crcHigh := f.readAddressData.crcHi, crcLow := b, readAddressIndex := 6 }

/-- The FDC with the byte `b` offered to the CPU (R325, R362, R372). -/
def offered (b : Byte) (f : Fdc) : Fdc := { f with lostData := f.lostData || f.drq, dataRegister := b, drq := true }

/-- The place `(d, c, sd, i)` holds the logical byte under the head: the bound track of the selected drive, at the head's
index and in single density at the next one too (R68). -/
def underHead (s : State) (d : DriveId) (c : Nat) (sd : Bool) (i : Nat) : Prop :=
  s.fdc.currentDrive = some d ∧ c = (s.drives.get d).physicalTrack ∧ sd = s.fdc.sideOneSelected ∧
    (boundTrack s).isSome = true ∧
    (i = trackDataIndex s ∨ (s.fdc.doubleDensity = false ∧ i = (trackDataIndex s + 1) % trackLen s))

/-- The drives `ds` are those of `s` with exactly the logical byte under the head written with `v`: its IDAM bit is `mark` at
the head's index and clear at the second position of single density; every other byte and bit of every disk, every head
and every write-protect is as before (R68, R69; decisions D5, D8). With no bound track nothing is written (R71). -/
def WroteUnderHead (v : Byte) (mark : Bool) (s : State) (ds : Drives) : Prop :=
  (∀ d, (ds.get d).physicalTrack = (s.drives.get d).physicalTrack ∧
    (ds.get d).writeProtected = (s.drives.get d).writeProtected) ∧
  ∀ d c sd i,
    (underHead s d c sd i →
      mediaByte { s with drives := ds } d c sd i = some v ∧
        mediaMark { s with drives := ds } d c sd i = (mark && i == trackDataIndex s)) ∧
    (¬ underHead s d c sd i →
      mediaByte { s with drives := ds } d c sd i = mediaByte s d c sd i ∧
        mediaMark { s with drives := ds } d c sd i = mediaMark s d c sd i)

/-- What WriteTrack writes for the CPU's byte `b`, 0xF7 apart (R383 in double density, R384 in single). -/
def formatByte (doubleDensity : Bool) (b : Byte) : Byte :=
  if doubleDensity && b == 0xF5#8 then 0xA1#8 else if doubleDensity && b == 0xF6#8 then 0xC2#8 else b

/-- The CRC after the CPU's byte `b` of WriteTrack, 0xF7 apart (R383, R384). -/
def formatCrc (doubleDensity : Bool) (b : Byte) (c : Crc16) : Crc16 :=
  if doubleDensity then
    (if b = 0xF5#8 then 0xCDB4#16 else if b = 0xF6#8 then crcByte c 0xC2#8 else crcByte c b)
  else if b ∈ [0xF8#8, 0xF9#8, 0xFA#8, 0xFB#8, 0xFD#8, 0xFE#8] then crcByte 0xFFFF#16 b
  else crcByte c b

/-- The array byte just before the head is 0xA1 (R69, R383). -/
def a1Before (s : State) : Bool :=
  match boundTrack s with
  | some tr => tr.data.byteAt ((trackDataIndex s + trackLen s - 1) % trackLen s) == 0xA1#8
  | none => false

/-- The IDAM bit WriteTrack passes for the CPU's byte `b` (R69, R383, R384). -/
def formatMark (b : Byte) (s : State) : Bool := b == 0xFE#8 && (!s.fdc.doubleDensity || a1Before s)

/-- A phase of the read waveform, as the table of R182 gives the one that follows inside the same bit: phase, polarity and
duration. -/
def phaseAfter (p : Config.Params) (bit : Bool) : Phase → Option (Phase × Polarity × Nat)
  | .hiPos => some (.hiNeg, .negative, if bit then 378000 else 771000)
  | .loClkPos => some (.loClkNeg, .negative, p.loPulseNeg)
  | .loClkNeg => some (.loPostClk, .zero, if bit then 1632000 else 3669000)
  | .loPostClk => if bit then some (.loDatPos, .positive, p.loPulsePos) else none
  | .loDatPos => some (.loDatNeg, .negative, p.loPulseNeg)
  | .loDatNeg => some (.loPostDat, .zero, 1632000)
  | .start | .hiNeg | .loPostDat => none

/-- `s` with the read request registered for tick `s.tickCount + n` (R134, R184). -/
def readArmed (n : Nat) (s : State) : State :=
  { s with
    sched :=
      { s.sched with
        nextSeq := s.sched.nextSeq + 1
        read :=
          { active := true, trigger := s.tickCount + n, seq := s.sched.nextSeq, basis := .ticks, delay := n
            callback := .cassetteReadCallback } } }

/-- The cassette after `FeedHeaderDetector(b)` (R180): a run of 0x55 and 0xAA or of 0x00 is counted, the other run starts
anew, and from the 21st byte of a run on the speed is set. -/
def headerFed (b : Byte) (c : Cassette) : Cassette :=
  if b = 0x55#8 ∨ b = 0xAA#8 then
    { c with
      consecutiveFiftyFives := c.consecutiveFiftyFives + 1, consecutiveZeros := 0
      speed := if 21 ≤ c.consecutiveFiftyFives + 1 then .high else c.speed }
  else if b = 0x00#8 then
    { c with
      consecutiveFiftyFives := 0, consecutiveZeros := c.consecutiveZeros + 1
      speed := if 21 ≤ c.consecutiveZeros + 1 then .low else c.speed }
  else { c with consecutiveFiftyFives := 0, consecutiveZeros := 0 }

/-- A bit can be read and the tape goes on: the bit is not the tape's last (R175). -/
abbrev TapeGoesOn (c : Cassette) : Prop := 0 < c.bitCursor ∨ c.byteCursor + 1 < c.data.size

/-- The cassette after `AdvanceCursor(false)` on a tape that goes on (R175): within the byte, or on bit 7 of the next one
with the byte left fed to the header detector. -/
def cursorRead (c : Cassette) : Cassette :=
  if 0 < c.bitCursor then { c with bitCursor := c.bitCursor - 1 }
  else { headerFed (c.data.byteAt c.byteCursor) c with byteCursor := c.byteCursor + 1, bitCursor := 7 }

/-- `s` with the cassette `c` after the block stopped a running tape (R172, R179). -/
def tapeStopped (c : Cassette) (s : State) : State :=
  { s with
    cas := { c with motorEngaged := false, recordInvoked := false, motorOn := false, transition := none }
    sched := { s.sched with read := { s.sched.read with active := false } } }

/-- `s` after a bit under the cursor begins at the end of phase `t` (R183): the cursor moves on, the speed is the one it
has then, the first phase is Positive, a rising edge if the phase before was not, and the request aims at the end of it. -/
def bitBegins (t : Transition) (s : State) : State :=
  let b := (s.cas.data.byteAt s.cas.byteCursor).getLsbD s.cas.bitCursor
  let c := cursorRead s.cas
  let dur := if c.speed = .high then (if b then 378000 else 771000) else s.params.loPulsePos
  readArmed dur { s with
    cas := { c with
      transition := some
        { phase := if c.speed = .high then .hiPos else .loClkPos, bit := b, phaseEnd := s.tickCount + dur
          before := t.after, after := .positive, lastNonZero := .positive
          flipFlop := (t.flipFlop && !t.clearPending) || decide (t.after ≠ .positive), clearPending := false } }
    latches := { s.latches with
      cassetteRisingEdge := s.latches.cassetteRisingEdge || decide (t.after ≠ .positive) } }

/-- The polarity of a byte written to the cassette port: bits 1:0 are 01 for Positive, 10 for Negative (R190). -/
def portPolarity (v : Byte) : Polarity :=
  if v.getLsbD 1 = false ∧ v.getLsbD 0 = true then .positive
  else if v.getLsbD 1 = true ∧ v.getLsbD 0 = false then .negative
  else .zero

/-- `s` after a polarity change that is not measured (R190): a pending flip-flop is dropped and the polarity noted. -/
def polarityNoted (pol : Polarity) (s : State) : State :=
  { s with
    cas := { s.cas with
      transition := s.cas.transition.map fun t => { t with flipFlop := false, clearPending := false }
      lastWritePolarity := pol } }

/-- The cassette after a positive edge was timed at tick `now` (R190, R191): both timestamps, and no pending flip-flop. -/
def edgeTimed (now : Nat) (c : Cassette) : Cassette :=
  { c with
    nextLastWritePositive := c.lastWritePositive, lastWritePositive := now
    transition := c.transition.map fun t => { t with flipFlop := false, clearPending := false } }

end Sys2Proof.Claims

section

open Sys2Proof Sys2Proof.Machine Sys2Proof.Claims

/-! ## Encoding -/

/-- Decoding the bytes of any instruction, whatever follows them, gives the instruction and what follows (R90 to R97; the
command map is decision D9, log 17). -/
def Obligations.DecodeEncodeAgree : Prop :=
  ∀ (i : Instr) (rest : List Byte), i.wellFormed = true → decode (encode i ++ rest) = .ok (i, rest)

/-- Every byte is the encoding of exactly one instruction, the one it decodes to: the rows of the table cover the 256
values once each (R96, R97; the command map is decision D9, log 17). -/
def Obligations.EveryByteIsOneCommand : Prop :=
  ∀ b : Byte, ∃ i : Instr, decode [b] = .ok (i, []) ∧ encode i = [b] ∧ ∀ j : Instr, encode j = [b] → j = i

/-- Command bytes the rules name decode to the instructions they stand for (R98, R281, R282, R294 to R296, R345, R346, R364,
R373, R387, R400). The numbers of Seek, the Step family, ReadAddress, ReadTrack and WriteTrack are the spec's decision D9,
from general knowledge (G4, G5; log 17). -/
def Obligations.SampleBytesDecode : Prop :=
  decode [0x03#8] = .ok (.restore false false 3#2, []) ∧
  decode [0x07#8] = .ok (.restore false true 3#2, []) ∧
  decode [0x11#8] = .ok (.seek false false 1#2, []) ∧
  decode [0x20#8] = .ok (.step false false false 0#2, []) ∧
  decode [0x52#8] = .ok (.stepIn true false false 2#2, []) ∧
  decode [0x70#8] = .ok (.stepOut true false false 0#2, []) ∧
  decode [0x80#8] = .ok (.rdsec false false false false false, []) ∧
  decode [0xA1#8] = .ok (.wrsec false false false false true, []) ∧
  decode [0xC4#8] = .ok (.rdaddr false true 0#2, []) ∧
  decode [0xD0#8] = .ok (.reset, []) ∧
  decode [0xD8#8] = .ok (.forceintimm, []) ∧
  decode [0xD5#8] = .ok (.forceintD4 1#2, []) ∧
  decode [0xE0#8] = .ok (.rdtrk false false 0#2, []) ∧
  decode [0xF4#8] = .ok (.wrtrk false true 0#2, [])

/-! ## The step -/

/-- Where the next input is the CPU's write of a byte to port 0xF0 and the byte decodes to `i`, the step is `exec i`, the write
of a command byte (R61, R230). The model's choices here: a step takes the head of `inputs`, and `withFetchWord` places the write
there (log 2); the outputs of the last step go as the step begins (log 13). The same for a table word placed as the next
command. -/
def Obligations.StepRunsDecodedCommand : Prop :=
  (∀ (s : State) (i : Instr) (v : Byte) (rest : List Input),
    s.inputs = .portOut 0xF0#8 v :: rest → decode [v] = .ok (i, []) → i.wellFormed = true →
      step s = exec i { s with inputs := rest, outputs := [] }) ∧
  (∀ (s : State) (w : Nat) (i : Instr),
    decodeTableWord 8 w = some i → step (s.withFetchWord 8 w) = exec i { s with outputs := [] })

/-! ## Commands: what the write of the command byte does -/

/-- A disabled FDC ignores every command byte (R64, decision D28); an enabled and busy one refuses those of Type I, II and III
(R230, decision D10: model and spec give that write no meaning). -/
def Obligations.CommandsTurnedAway : Prop :=
  (∀ (i : Instr) (s : State), s.fdc.enabled = false → exec i s = .next s) ∧
  (∀ (i : Instr) (s : State), s.fdc.enabled = true → s.fdc.busy = true → (encodeByte i).extractLsb' 4 4 ≠ 0xD#4 →
    exec i s = .refused .commandWhileBusy)

/-- RESTORE: the registers are forced to 0xFF and 0x00 and the first step goes down, in the write itself (R240, R281, R283,
R285; decisions D11, D14). -/
def Obligations.RestoreStepsDown : Prop :=
  ∀ (h v : Bool) (r : BitVec 2) (s : State), Ready s →
    exec (.restore h v r) s = .next (stepPassed (stepUs r)
      { started (encodeByte (.restore h v r)) .restore s.fdc with
        verify := v, updateRegisters := true, trackRegister := 0xFF#8, dataRegister := 0x00#8, lastStepDirUp := false }
      (acknowledged s))

/-- SEEK: with the target reached it goes on to the verify choice, else the first step goes towards the target, in the
write itself (R240, R282, R283, R285, R290; decisions D11, D13, D14). -/
def Obligations.SeekStepsToTarget : Prop :=
  ∀ (h v : Bool) (r : BitVec 2) (s : State), Ready s →
    (s.fdc.dataRegister = s.fdc.trackRegister →
      exec (.seek h v r) s = .next (verifyChecked
        { started (encodeByte (.seek h v r)) .seek s.fdc with verify := v, updateRegisters := true }
        (acknowledged s))) ∧
    (s.fdc.dataRegister ≠ s.fdc.trackRegister →
      exec (.seek h v r) s = .next (stepPassed (stepUs r)
        { started (encodeByte (.seek h v r)) .seek s.fdc with
          verify := v, updateRegisters := true, lastStepDirUp := decide (s.fdc.trackRegister < s.fdc.dataRegister) }
        (acknowledged s)))

/-- STEP, STEPIN and STEPOUT: one step in the old direction, up, or down, with the register counted only with `u` (R92,
R240, R283, R285, R294 to R296; decisions D9, D11, D14). -/
def Obligations.StepCommandsStepOnce : Prop :=
  ∀ (u h v : Bool) (r : BitVec 2) (s : State), Ready s →
    exec (.step u h v r) s = .next (stepPassed (stepUs r)
      { started (encodeByte (.step u h v r)) .step s.fdc with verify := v, updateRegisters := u }
      (acknowledged s)) ∧
    exec (.stepIn u h v r) s = .next (stepPassed (stepUs r)
      { started (encodeByte (.stepIn u h v r)) .step s.fdc with verify := v, updateRegisters := u, lastStepDirUp := true }
      (acknowledged s)) ∧
    exec (.stepOut u h v r) s = .next (stepPassed (stepUs r)
      { started (encodeByte (.stepOut u h v r)) .step s.fdc with
        verify := v, updateRegisters := u, lastStepDirUp := false }
      (acknowledged s))

/-- RDSEC, and WRSEC on a drive that is not protected or with no drive: the decode flags are set from the command byte and the
header search begins, at once or after the delay (R240, R310, R345, R346; decisions D11, D16, D29). -/
def Obligations.SectorCommandsStart : Prop :=
  ∀ (m sd e c x : Bool) (s : State), Ready s → (e = false → HeadOk s) →
    exec (.rdsec m sd e c x) s = .next (searchBegins e .seekingIDAM
      { started (encodeByte (.rdsec m sd e c x)) .readSector s.fdc with
        delay := e, sideSelectVerify := c, sideOneExpected := sd, multipleRecords := m, markSectorDeleted := false }
      (acknowledged s)) ∧
    (driveWP s = false →
      exec (.wrsec m sd e c x) s = .next (searchBegins e .seekingIDAM
        { started (encodeByte (.wrsec m sd e c x)) .writeSector s.fdc with
          delay := e, sideSelectVerify := c, sideOneExpected := sd, multipleRecords := m, markSectorDeleted := x }
        (acknowledged s)))

/-- WRSEC and WRTRK on a protected drive: the flag is set in the write of the command byte, the command ends 30 µs later, and
no DRQ is raised and no disk is touched (R330, R449; the flags cleared at the start are
decision D11); with no drive selected the drive counts as not protected. -/
def Obligations.ProtectedDriveAbortsWrites : Prop :=
  (∀ (m sd e c a0 : Bool) (s : State) (d : DriveId),
    Ready s → s.fdc.currentDrive = some d → (s.drives.get d).writeProtected = true →
      exec (.wrsec m sd e c a0) s = .next (terminated
        { started (encodeByte (.wrsec m sd e c a0)) .writeSector s.fdc with
          delay := e, sideSelectVerify := c, sideOneExpected := sd, multipleRecords := m, markSectorDeleted := a0
          writeProtected := true }
        (acknowledged s))) ∧
  (∀ (x3 e : Bool) (x10 : BitVec 2) (s : State) (d : DriveId),
    Ready s → s.fdc.currentDrive = some d → (s.drives.get d).writeProtected = true →
      exec (.wrtrk x3 e x10) s = .next (terminated
        { started (encodeByte (.wrtrk x3 e x10)) .writeTrack s.fdc with delay := e, writeProtected := true }
        (acknowledged s))) ∧
  (∀ s : State, s.fdc.currentDrive = none → driveWP s = false)

/-- RDADDR and RDTRK: the delay flag is set and the search begins, for a header or for the index hole (R240, R360, R364, R370,
R373; decisions D11, D16, D29). -/
def Obligations.TypeThreeReadsStart : Prop :=
  ∀ (x3 e : Bool) (x10 : BitVec 2) (s : State), Ready s → (e = false → HeadOk s) →
    exec (.rdaddr x3 e x10) s = .next (searchBegins e .seekingIDAM
      { started (encodeByte (.rdaddr x3 e x10)) .readAddress s.fdc with delay := e } (acknowledged s)) ∧
    exec (.rdtrk x3 e x10) s = .next (searchBegins e .seekingIndexHole
      { started (encodeByte (.rdtrk x3 e x10)) .readTrack s.fdc with delay := e } (acknowledged s))

/-- WRTRK on a drive that is not protected, or with no drive: the first DRQ is raised at once and the wait for the index
hole begins (R240, R380, R387; decisions D11, D16, D25, D29). -/
def Obligations.WriteTrackStarts : Prop :=
  ∀ (x3 e : Bool) (x10 : BitVec 2) (s : State), Ready s → driveWP s = false → (e = false → HeadOk s) →
    exec (.wrtrk x3 e x10) s = .next (searchBegins e .seekingIndexHole
      { started (encodeByte (.wrtrk x3 e x10)) .writeTrack s.fdc with delay := e, drq := true } (acknowledged s))

/-- FORCEINTIMM at any time, busy or not: the command is dropped, `busy` and `drq` go and `FdcNmi` is latched at once; all
else stays (R401, R403, R442; decision D26). -/
def Obligations.ForceInterruptImmediateAborts : Prop :=
  ∀ s : State, s.fdc.enabled = true →
    exec .forceintimm s = .next { s with
      fdc := aborted 0xD8#8 .forceInterruptImmediate s.fdc
      sched := { s.sched with command := { s.sched.command with active := false } }
      latches := { s.latches with fdcNmi := true } }

/-- FORCEINT in each of its six rows does as FORCEINTIMM (R404), and RESET does the same but latches nothing (R402); decision
D26 of the spec stands behind both. -/
def Obligations.ForceInterruptAndResetAbort : Prop :=
  ∀ (s : State) (x : Bool) (xx : BitVec 2), s.fdc.enabled = true →
    let abort (v : Byte) : Host.Outcome State Fault Refusal := .next { s with
      fdc := aborted v .forceInterrupt s.fdc
      sched := { s.sched with command := { s.sched.command with active := false } }
      latches := { s.latches with fdcNmi := true } }
    exec .forceintD1 s = abort 0xD1#8 ∧ exec (.forceintD2 x) s = abort (0b1101001#7 ++ BitVec.ofBool x) ∧
    exec (.forceintD4 xx) s = abort (0b110101#6 ++ xx) ∧ exec .forceintD9 s = abort 0xD9#8 ∧
    exec (.forceintDA x) s = abort (0b1101101#7 ++ BitVec.ofBool x) ∧
    exec (.forceintDC xx) s = abort (0b110111#6 ++ xx) ∧
    exec .reset s = .next { s with
      fdc := aborted 0xD0#8 .reset s.fdc
      sched := { s.sched with command := { s.sched.command with active := false } } }

/-- The frame of all eighteen commands: the write of a command byte leaves the clock, the cassette, the other three requests,
the other three latches, the selection, the motor, every disk with its write-protect and every unselected drive as they
were; it moves the selected head by one track at most and emits nothing but a track step. -/
def Obligations.CommandFrame : Prop :=
  ∀ (i : Instr) (s t : State), exec i s = .next t →
    t.params = s.params ∧ t.tickCount = s.tickCount ∧ t.cas = s.cas ∧ t.draws = s.draws ∧ t.inputs = s.inputs ∧
    t.sched.motorOn = s.sched.motorOn ∧ t.sched.motorOff = s.sched.motorOff ∧ t.sched.read = s.sched.read ∧
    (∀ l, l ≠ .fdcNmi → t.latches.get l = s.latches.get l) ∧
    t.fdc.enabled = s.fdc.enabled ∧ t.fdc.motorOn = s.fdc.motorOn ∧ t.fdc.currentDrive = s.fdc.currentDrive ∧
    t.fdc.sideOneSelected = s.fdc.sideOneSelected ∧ t.fdc.doubleDensity = s.fdc.doubleDensity ∧
    t.fdc.sectorRegister = s.fdc.sectorRegister ∧
    (∀ d, (t.drives.get d).floppy = (s.drives.get d).floppy ∧
      (t.drives.get d).writeProtected = (s.drives.get d).writeProtected ∧
      (s.fdc.currentDrive ≠ some d → t.drives.get d = s.drives.get d) ∧
      (t.drives.get d).physicalTrack ≤ (s.drives.get d).physicalTrack + 1 ∧
      (s.drives.get d).physicalTrack ≤ (t.drives.get d).physicalTrack + 1) ∧
    (t.outputs = s.outputs ∨ t.outputs = s.outputs ++ [.trackStep])

/-! ## The sequencer: what one firing does -/

/-- State `NMI` of any command: idle, not busy, no DRQ, and `FdcNmi` latched; nothing else changes (R442, R443). -/
def Obligations.NmiStateCompletes : Prop :=
  ∀ s : State, s.fdc.opStatus = .nmi →
    fdcAdvance s = .next { s with
      fdc := { s.fdc with opStatus := .opDone, busy := false, drq := false }
      latches := { s.latches with fdcNmi := true } }

/-- State `Step` of a Type I command: Restore and Seek end the stepping where the registers agree, else every pass moves the
head as R285 says; Step keeps its direction. State `CheckVerify` chooses between the verify, which begins
after a time wait (log 15), and the end (R285, R290; decisions D13, D14). -/
def Obligations.StepStatePasses : Prop :=
  (∀ s : State, s.fdc.opStatus = .step → isTypeI s.fdc.command = true →
    (s.fdc.command ≠ .step → s.fdc.dataRegister = s.fdc.trackRegister →
      fdcAdvance s = .next (verifyChecked s.fdc s)) ∧
    (s.fdc.command ≠ .step → s.fdc.dataRegister ≠ s.fdc.trackRegister →
      fdcAdvance s = .next (stepPassed (stepUs (s.fdc.commandRegister.extractLsb' 0 2))
        { s.fdc with lastStepDirUp := decide (s.fdc.trackRegister < s.fdc.dataRegister) } s)) ∧
    (s.fdc.command = .step →
      fdcAdvance s = .next (stepPassed (stepUs (s.fdc.commandRegister.extractLsb' 0 2)) s.fdc s))) ∧
  (∀ s : State, s.fdc.opStatus = .checkVerify → isTypeI s.fdc.command = true →
    fdcAdvance s = .next (verifyChecked s.fdc s))

/-- State `Delay`: the index count starts and the search begins, for a header or, in the track commands, for the index hole
(R311, R361, R370, R380; decisions D16, D25). -/
def Obligations.DelayEndsInSearch : Prop :=
  ∀ s : State, s.fdc.opStatus = .delay → HeadOk s →
    (s.fdc.command ∈ [.readSector, .writeSector, .readAddress] →
      fdcAdvance s = .next (byteWait 1 .seekingIDAM { s.fdc with indexCheckStartTick := indexStart s } s)) ∧
    (s.fdc.command ∈ [.readTrack, .writeTrack] →
      fdcAdvance s = .next (byteWait 1 .seekingIndexHole { s.fdc with indexCheckStartTick := indexStart s } s))

/-- State `SeekingIDAM`: five revolutions end the command with `seek_error`; before that an IDAM under the head starts the
header with its CRC, and any other byte is passed over (R260). That the look is made wherever the head is, also as the first one
of a Type I verify after its time wait, is DEDUCED: R260, R290 and R291 against a sentence of R72 (log 15). -/
def Obligations.IdamSearch : Prop :=
  ∀ s : State, searches s.fdc.command = true → s.fdc.opStatus = .seekingIDAM →
    (5 ≤ indexesFound s → fdcAdvance s = .next (terminated { s.fdc with seekError := true } s)) ∧
    (indexesFound s < 5 → HeadOk s → IdamUnderHead s →
      fdcAdvance s = .next (byteWait 1 .readingAddressData
        { s.fdc with crc := crcByte (crcPreset s.fdc.doubleDensity) (headByte s), readAddressIndex := 0 } s)) ∧
    (indexesFound s < 5 → HeadOk s → ¬ IdamUnderHead s → fdcAdvance s = .next (byteWait 1 .seekingIDAM s.fdc s))

/-- The first five bytes of a header are stored in order, the first four covered by the CRC, which is captured after the
fourth (R261; decision D17); ReadAddress also offers each to the CPU (R362). -/
def Obligations.HeaderBytesStored : Prop :=
  ∀ s : State, searches s.fdc.command = true → s.fdc.opStatus = .readingAddressData → HeadOk s →
    s.fdc.readAddressIndex < 5 →
      fdcAdvance s = .next (byteWait 1 .readingAddressData
        (headerStored s.fdc.readAddressIndex (headByte s)
          (if s.fdc.command = .readAddress then offered (headByte s) s.fdc else s.fdc))
        (counted s))

/-- The sixth header byte of ReadSector and WriteSector: a header of another track, sector or side is skipped, a matching one
with a bad CRC ends the command with `crc_error`, and a good one starts the transfer with the length of its size code (R111,
R261, R315, R316, R318; decisions D17 and D18, the size code from general knowledge, G8; log 17). -/
def Obligations.TypeTwoHeaderDecides : Prop :=
  ∀ s : State, (s.fdc.command = .readSector ∨ s.fdc.command = .writeSector) → s.fdc.opStatus = .readingAddressData →
    HeadOk s → s.fdc.readAddressIndex = 5 →
    let a := s.fdc.readAddressData
    let f := headerComplete (headByte s) s.fdc
    let wanted := a.track = s.fdc.trackRegister ∧ a.sector = s.fdc.sectorRegister ∧
      (s.fdc.sideSelectVerify = true → (a.side ≠ 0x00#8 ↔ s.fdc.sideOneExpected = true))
    (¬ wanted → fdcAdvance s = .next (byteWait 1 .seekingIDAM f (counted s))) ∧
    (wanted → a.crcHi ++ headByte s ≠ s.fdc.crcCalc →
      fdcAdvance s = .next (terminated { f with crcError := true } (counted s))) ∧
    (wanted → a.crcHi ++ headByte s = s.fdc.crcCalc → s.fdc.command = .readSector →
      fdcAdvance s = .next (byteWait 1 .seekingDAM
        { f with sectorLength := 128 * 2 ^ (a.size.toNat % 4), damBytesChecked := 0 } (counted s))) ∧
    (wanted → a.crcHi ++ headByte s = s.fdc.crcCalc → s.fdc.command = .writeSector →
      fdcAdvance s = .next (byteWait 8 .drqCheck
        { f with sectorLength := 128 * 2 ^ (a.size.toNat % 4), drq := true } (counted s)))

/-- The sixth header byte where it ends the search. A Type I verify compares the header's track with `track_register` and
nothing else (R261, R292; decision D15). ReadAddress offers the byte, puts the header's track and sector into the registers,
sets `crc_error` on a bad CRC and ends (R261, R362, R363; decisions D20, D23). -/
def Obligations.VerifyAndReadAddressEnd : Prop :=
  ∀ s : State, s.fdc.opStatus = .readingAddressData → HeadOk s → s.fdc.readAddressIndex = 5 →
    (isTypeI s.fdc.command = true → s.fdc.readAddressData.track = s.fdc.trackRegister →
      fdcAdvance s = .next (terminated (headerComplete (headByte s) s.fdc) (counted s))) ∧
    (isTypeI s.fdc.command = true → s.fdc.readAddressData.track ≠ s.fdc.trackRegister →
      fdcAdvance s = .next (byteWait 1 .seekingIDAM (headerComplete (headByte s) s.fdc) (counted s))) ∧
    (s.fdc.command = .readAddress →
      fdcAdvance s = .next (terminated
        { headerComplete (headByte s) (offered (headByte s) s.fdc) with
          crcError := s.fdc.crcError || (s.fdc.readAddressData.crcHi ++ headByte s) != s.fdc.crcCalc
          trackRegister := s.fdc.readAddressData.track, sectorRegister := s.fdc.readAddressData.sector }
        (counted s)))

/-- State `SeekingDAM` of ReadSector: 0xFB and 0xF8 are data marks and start the data CRC, any other byte is counted, and the
30th or 43rd byte without a mark goes back to the header search, with the index count as it is (R320, R321; that the search
goes on there is decision D19, log 17). -/
def Obligations.DamSearch : Prop :=
  ∀ s : State, s.fdc.command = .readSector → s.fdc.opStatus = .seekingDAM → HeadOk s →
    let b := headByte s
    let f := { s.fdc with damBytesChecked := s.fdc.damBytesChecked + 1 }
    (b = 0xFB#8 ∨ b = 0xF8#8 →
      fdcAdvance s = .next (byteWait 1 .readingData
        { f with
          sectorDeleted := b == 0xF8#8, crc := crcByte (crcPreset s.fdc.doubleDensity) b, bytesRead := 0 }
        (counted s))) ∧
    (b ≠ 0xFB#8 → b ≠ 0xF8#8 → (if s.fdc.doubleDensity then 43 else 30) ≤ s.fdc.damBytesChecked + 1 →
      fdcAdvance s = .next (byteWait 1 .seekingIDAM f (counted s))) ∧
    (b ≠ 0xFB#8 → b ≠ 0xF8#8 → s.fdc.damBytesChecked + 1 < (if s.fdc.doubleDensity then 43 else 30) →
      fdcAdvance s = .next (byteWait 1 .seekingDAM f (counted s)))

/-- State `ReadingData` of ReadSector: each byte is offered to the CPU, an uncollected one is lost, the CRC goes on, and the
last byte hands over to the CRC bytes (R325; decision D20). -/
def Obligations.SectorBytesDelivered : Prop :=
  ∀ s : State, s.fdc.command = .readSector → s.fdc.opStatus = .readingData → HeadOk s →
    let f := { offered (headByte s) s.fdc with
      crc := crcByte s.fdc.crc (headByte s), bytesRead := s.fdc.bytesRead + 1 }
    (s.fdc.bytesRead + 1 = s.fdc.sectorLength →
      fdcAdvance s = .next (byteWait 1 .readCRCHigh { f with crcCalc := crcByte s.fdc.crc (headByte s) }
        (counted s))) ∧
    (s.fdc.bytesRead + 1 ≠ s.fdc.sectorLength → fdcAdvance s = .next (byteWait 1 .readingData f (counted s)))

/-- States `ReadCRCHigh` and `ReadCRCLow`: the stored CRC, high byte first, is compared with the computed one; a bad one
ends the command with `crc_error`, a good one ends it or goes on to the next sector number, modulo 256 (R326, R327). -/
def Obligations.DataCrcChecked : Prop :=
  ∀ s : State, s.fdc.command = .readSector → HeadOk s →
    (s.fdc.opStatus = .readCRCHigh →
      fdcAdvance s = .next (byteWait 1 .readCRCLow { s.fdc with crcHigh := headByte s } (counted s))) ∧
    (s.fdc.opStatus = .readCRCLow →
      let f := { s.fdc with crcLow := headByte s }
      (s.fdc.crcHigh ++ headByte s ≠ s.fdc.crcCalc →
        fdcAdvance s = .next (terminated { f with crcError := true } (counted s))) ∧
      (s.fdc.crcHigh ++ headByte s = s.fdc.crcCalc → s.fdc.multipleRecords = true →
        fdcAdvance s = .next (byteWait 1 .seekingIDAM { f with sectorRegister := s.fdc.sectorRegister + 1#8 }
          (counted s))) ∧
      (s.fdc.crcHigh ++ headByte s = s.fdc.crcCalc → s.fdc.multipleRecords = false →
        fdcAdvance s = .next (terminated f (counted s))))

/-- States `WriteFiller` and `WriteSync`: a 0x00 or a 0xA1 goes under the head and is counted off; after the last filler
come three sync bytes in double density or the DAM in single, and after the last sync byte the DAM (R332, R333). -/
def Obligations.FillerAndSyncWritten : Prop :=
  ∀ s : State, MediaInv s → s.fdc.command = .writeSector → HeadOk s → 1 ≤ s.fdc.bytesToWrite →
    (s.fdc.opStatus = .writeFiller → ∃ ds, WroteUnderHead 0x00#8 false s ds ∧
      fdcAdvance s = .next { (
        if s.fdc.bytesToWrite ≠ 1 then byteWait 1 .writeFiller { s.fdc with bytesToWrite := s.fdc.bytesToWrite - 1 } s
        else if s.fdc.doubleDensity then byteWait 1 .writeSync { s.fdc with bytesToWrite := 3 } s
        else byteWait 1 .writeDAM { s.fdc with bytesToWrite := 0 } s) with drives := ds }) ∧
    (s.fdc.opStatus = .writeSync → ∃ ds, WroteUnderHead 0xA1#8 false s ds ∧
      fdcAdvance s = .next { byteWait 1 (if s.fdc.bytesToWrite = 1 then .writeDAM else .writeSync)
        { s.fdc with bytesToWrite := s.fdc.bytesToWrite - 1 } s with drives := ds })

/-- State `WriteDAM`: the mark, 0xF8 for a deleted sector and else 0xFB, goes under the head and starts the CRC (R334). -/
def Obligations.DamWritten : Prop :=
  ∀ s : State, MediaInv s → s.fdc.command = .writeSector → s.fdc.opStatus = .writeDAM → HeadOk s →
    let dam := if s.fdc.markSectorDeleted then 0xF8#8 else 0xFB#8
    ∃ ds, WroteUnderHead dam false s ds ∧
      fdcAdvance s = .next { byteWait 1 .writingData
        { s.fdc with
          crc := crcByte (crcPreset s.fdc.doubleDensity) dam, bytesToWrite := s.fdc.sectorLength } s with drives := ds }

/-- WriteSector and the CPU's bytes. State `DrqCheck`: a first byte that did not come ends the command with `lost_data` and
nothing written, else the filler begins (R331). State `WritingData`: the CPU's byte, or 0x00 with `lost_data` where none
came, goes under the head and into the CRC, and each but the last asks for the next (R336). Decision D20 of the spec. -/
def Obligations.WriteSectorTakesBytes : Prop :=
  ∀ s : State, MediaInv s → s.fdc.command = .writeSector →
    (s.fdc.opStatus = .drqCheck →
      (s.fdc.drq = true → fdcAdvance s = .next (terminated { s.fdc with lostData := true } s)) ∧
      (s.fdc.drq = false → HeadOk s →
        fdcAdvance s = .next (byteWait 1 .writeFiller
          { s.fdc with bytesToWrite := if s.fdc.doubleDensity then 12 else 6 } s))) ∧
    (s.fdc.opStatus = .writingData → HeadOk s → 1 ≤ s.fdc.bytesToWrite →
      let b := if s.fdc.drq then 0x00#8 else s.fdc.dataRegister
      ∃ ds, WroteUnderHead b false s ds ∧
        fdcAdvance s = .next { byteWait 1 (if s.fdc.bytesToWrite = 1 then .writeCRCHigh else .writingData)
          { s.fdc with
            lostData := s.fdc.lostData || s.fdc.drq, crc := crcByte s.fdc.crc b
            bytesToWrite := s.fdc.bytesToWrite - 1, drq := decide (s.fdc.bytesToWrite ≠ 1) } s with drives := ds })

/-- States `WriteCRCHigh`, `WriteCRCLow` and `WriteTrailer` of WriteSector: the CRC goes out high byte first, then 0xFF; the
command ends or goes on to the next sector number, modulo 256 (R337, R338, R339). -/
def Obligations.CrcAndTrailerWritten : Prop :=
  ∀ s : State, MediaInv s → s.fdc.command = .writeSector → HeadOk s →
    (s.fdc.opStatus = .writeCRCHigh → ∃ ds, WroteUnderHead (s.fdc.crc.extractLsb' 8 8) false s ds ∧
      fdcAdvance s = .next { byteWait 1 .writeCRCLow
        { s.fdc with crcHigh := s.fdc.crc.extractLsb' 8 8, crcLow := s.fdc.crc.extractLsb' 0 8 } s with drives := ds }) ∧
    (s.fdc.opStatus = .writeCRCLow → ∃ ds, WroteUnderHead s.fdc.crcLow false s ds ∧
      fdcAdvance s = .next { byteWait 1 .writeTrailer s.fdc s with drives := ds }) ∧
    (s.fdc.opStatus = .writeTrailer → ∃ ds, WroteUnderHead 0xFF#8 false s ds ∧
      fdcAdvance s = .next { (
        if s.fdc.multipleRecords then
          byteWait 1 .seekingIDAM { s.fdc with sectorRegister := s.fdc.sectorRegister + 1#8 } s
        else terminated s.fdc s) with drives := ds })

/-- ReadTrack: bytes are passed over until the index position passes, then every byte is offered to the CPU until it passes
again (R371, R372; decision D24). -/
def Obligations.ReadTrackStreams : Prop :=
  ∀ s : State, s.fdc.command = .readTrack →
    (s.fdc.opStatus = .seekingIndexHole → HeadOk s →
      (indexesFound s = 0 → fdcAdvance s = .next (byteWait 1 .seekingIndexHole s.fdc s)) ∧
      (1 ≤ indexesFound s →
        fdcAdvance s = .next (byteWait 1 .readingData
          (offered (headByte s) { s.fdc with indexCheckStartTick := indexStart s }) (counted s)))) ∧
    (s.fdc.opStatus = .readingData →
      (1 ≤ indexesFound s → fdcAdvance s = .next (terminated s.fdc s)) ∧
      (indexesFound s = 0 → HeadOk s →
        fdcAdvance s = .next (byteWait 1 .readingData (offered (headByte s) s.fdc) (counted s))))

/-- WriteTrack and the CPU's stream. Before the index bytes are passed over; at the index the CRC is preset and the first
byte is taken in the same step (R382). Each byte, or 0x00 with `lost_data`, is translated, goes under the head with its IDAM
bit and into the CRC; 0xF7 writes the CRC's high byte and asks for nothing; the index ends the command (R381, R383, R384,
R385, R386; decisions D24 and D25 of the spec). -/
def Obligations.WriteTrackTranslates : Prop :=
  ∀ s : State, MediaInv s → s.fdc.command = .writeTrack →
    (s.fdc.opStatus = .seekingIndexHole → indexesFound s = 0 → HeadOk s →
      fdcAdvance s = .next (byteWait 1 .seekingIndexHole s.fdc s)) ∧
    (s.fdc.opStatus = .writingData → 1 ≤ indexesFound s → fdcAdvance s = .next (terminated s.fdc s)) ∧
    (∀ f : Fdc,
      (s.fdc.opStatus = .writingData ∧ indexesFound s = 0 ∧ f = s.fdc) ∨
        (s.fdc.opStatus = .seekingIndexHole ∧ 1 ≤ indexesFound s ∧
          f = { s.fdc with crc := crcPreset s.fdc.doubleDensity, indexCheckStartTick := indexStart s }) →
      HeadOk s →
      let b := if s.fdc.drq then 0x00#8 else s.fdc.dataRegister
      let lost := s.fdc.lostData || s.fdc.drq
      (b ≠ 0xF7#8 →
        ∃ ds, WroteUnderHead (formatByte s.fdc.doubleDensity b) (formatMark b s) s ds ∧
          fdcAdvance s = .next { byteWait 1 .writingData
            { f with lostData := lost, crc := formatCrc s.fdc.doubleDensity b f.crc, drq := true }
            (if s.fdc.doubleDensity && b == 0xFE#8 then counted s else s) with drives := ds }) ∧
      (b = 0xF7#8 →
        ∃ ds, WroteUnderHead (f.crc.extractLsb' 8 8) false s ds ∧
          fdcAdvance s = .next { byteWait 1 .writeCRCLow
            { f with
              lostData := lost, crcHigh := f.crc.extractLsb' 8 8, crcLow := f.crc.extractLsb' 0 8, drq := false } s with
            drives := ds })) ∧
    (s.fdc.opStatus = .writeCRCLow →
      (1 ≤ indexesFound s → fdcAdvance s = .next (terminated s.fdc s)) ∧
      (indexesFound s = 0 → HeadOk s → ∃ ds, WroteUnderHead s.fdc.crcLow false s ds ∧
        fdcAdvance s = .next { byteWait 1 .writingData { s.fdc with drq := true } s with drives := ds }))

/-! ## The scheduler, the clock and the rotating disk -/

/-- `Fire` takes the due request with the least trigger and among equal triggers the least `seq`, clears it and runs its
callback; with none due it is not enabled (R141). -/
def Obligations.FireTakesEarliest : Prop :=
  (∀ (s : State) (q : RequestId),
    (s.sched.get q).active = true → (s.sched.get q).trigger ≤ s.tickCount →
    (∀ p, p ≠ q → (s.sched.get p).active = true → (s.sched.get p).trigger ≤ s.tickCount →
      (s.sched.get q).trigger < (s.sched.get p).trigger ∨
        ((s.sched.get q).trigger = (s.sched.get p).trigger ∧ (s.sched.get q).seq < (s.sched.get p).seq)) →
    fire s = runCallback (s.sched.get q).callback (expire q s)) ∧
  (∀ s : State, (∀ q, (s.sched.get q).active = true → s.tickCount < (s.sched.get q).trigger) →
    fire s = .refused .fireNotEnabled)

/-- `Expire` clears one request and nothing else, does nothing to an inactive one, and a request that is inactive is never
the one that fires, whatever its fields hold (R135). -/
def Obligations.ExpiredRequestNeverFires : Prop :=
  (∀ (s : State) (q : RequestId),
    expire q s = { s with sched := s.sched.set q { s.sched.get q with active := false } } ∧
    ((s.sched.get q).active = false → expire q s = s)) ∧
  (∀ (s : State) (q : RequestId), (s.sched.get q).active = false →
    ∀ r : PulseReq, r.active = false →
      nextDue { s with sched := s.sched.set q r } = nextDue s ∧ nextDue s ≠ some q)

/-- `Register` on an active request is `Expire` then `Register`: it replaces trigger, callback and `seq`, and leaves the other
three requests (R136). The trigger is the tick plus the delay, microseconds taken to ticks with floor, and `seq` is the next
registration number (R133, R134; decisions D2, D3; log 17). -/
def Obligations.RegisterIsExpireThenRegister : Prop :=
  ∀ (s : State) (q : RequestId) (b : Basis) (n : Nat) (cb : Callback),
    register q b n cb s = register q b n cb (expire q s) ∧
    register q b n cb s = { s with
      sched := { s.sched.set q
        { active := true
          trigger := s.tickCount + (if b = .ticks then n else n * s.params.tps / 1000000)
          seq := s.sched.nextSeq, basis := b, delay := n, callback := cb } with nextSeq := s.sched.nextSeq + 1 } }

/-- `Advance(d)` moves the clock and nothing else, exactly where `d` is at least 1, no request is due, and no active request
would be passed by more than `MAX_LATENESS` (R131, R140, R142; decision D3, U27), up to the clock's 64 bits (log 5); elsewhere it
is refused (log 4). -/
def Obligations.AdvanceExactlyWhenEnabled : Prop :=
  ∀ (s : State) (d : Nat), s.tickCount + d < 2 ^ 64 →
    ((1 ≤ d ∧ ∀ q, (s.sched.get q).active = true →
        s.tickCount < (s.sched.get q).trigger ∧ s.tickCount + d ≤ (s.sched.get q).trigger + s.params.maxLateness) →
      advance d s = .next { s with tickCount := s.tickCount + d }) ∧
    (¬ (1 ≤ d ∧ ∀ q, (s.sched.get q).active = true →
        s.tickCount < (s.sched.get q).trigger ∧ s.tickCount + d ≤ (s.sched.get q).trigger + s.params.maxLateness) →
      advance d s = .refused .advanceNotEnabled)

/-- No step takes the clock back, but for the platform reset, which sets it to 0 (R132). -/
def Obligations.ClockIsMonotone : Prop :=
  ∀ s t : State, step s = .next t →
    (resetsNext s = false → s.tickCount ≤ t.tickCount) ∧ (resetsNext s = true → t.tickCount = 0)

/-- The angle is a function of the tick alone, in millionths of a revolution of `TPS / 5` ticks, from 0 to 999,999; the index
of the byte under the head is the angle's share of the track, from 0 to the track's last byte (R144, R149). -/
def Obligations.HeadPositionFollowsTick : Prop :=
  ∀ s : State,
    diskAngle s = s.tickCount % (s.params.tps / 5) * 1000000 / (s.params.tps / 5) ∧ diskAngle s ≤ 999999 ∧
    (∀ t : State, t.params = s.params → t.tickCount = s.tickCount → diskAngle t = diskAngle s) ∧
    trackDataIndex s = diskAngle s * trackLen s / 1000000 ∧
    (1 ≤ trackLen s → trackDataIndex s ≤ trackLen s - 1)

/-- After `ResetIndexCount()` at `r` ticks into a revolution, `IndexesFound` reaches `k` exactly `k` revolutions less `r` plus
ten ticks later (R146, R147; decision D4). -/
def Obligations.IndexCountReaches : Prop :=
  ∀ (s : State) (u k : Nat), 5 ≤ s.params.tps → 1 ≤ k →
    (k ≤ indexesFound { resetIndexCount s with tickCount := u } ↔
      s.tickCount + k * (s.params.tps / 5) + 10 ≤ u + s.tickCount % (s.params.tps / 5))

/-- A byte wait aims `n` logical bytes ahead of the head, modulo `TrackLen`: in single density `n` is doubled and the target
made even; the state, the continuation and the trigger are those of R152. `TrackLen` is the length of the bound track, or
12,500 or 6,250 with none (R36, R148). At the default `TPS` on a track of up to 38,968 bytes it lands there: at the trigger
tick the head is on the target index, so the poll misses nothing (R154). Decisions D5 and D6, log 17. -/
def Obligations.ByteWaitLandsOnTarget : Prop :=
  (∀ s : State,
    (∀ d, s.fdc.currentDrive = some d →
      boundTrack s = trackAt s d (s.drives.get d).physicalTrack s.fdc.sideOneSelected) ∧
    (s.fdc.currentDrive = none → boundTrack s = none) ∧
    (∀ tr, boundTrack s = some tr → trackLen s = tr.data.size) ∧
    (boundTrack s = none → trackLen s = if s.fdc.doubleDensity then 12500 else 6250)) ∧
  (∀ (s : State) (n : Nat) (st : OpStatus), HeadOk s → ∃ target,
    (s.fdc.doubleDensity = true → target = (trackDataIndex s + n) % trackLen s) ∧
    (s.fdc.doubleDensity = false → target % 2 = 0 ∧
      (target = (trackDataIndex s + 2 * n) % trackLen s ∨ target + 1 = (trackDataIndex s + 2 * n) % trackLen s)) ∧
    waitBytes n st s = .next { s with
      fdc := { s.fdc with
        isPolling := true, nextCallback := some .fdcAdvance, opStatus := st, targetDataIndex := target }
      sched := { s.sched with
        nextSeq := s.sched.nextSeq + 1
        command :=
          let d := (target * 1000000 / trackLen s + 1000000 - diskAngle s) % 1000000 * (s.params.tps / 5) / 1000000 + 10000
          { active := true, trigger := s.tickCount + d, seq := s.sched.nextSeq, basis := .ticks, delay := d
            callback := .poll } } }) ∧
  (∀ (s t : State) (n : Nat) (st : OpStatus), s.params.tps = 2027520000 → trackLen s ≤ 38968 →
    waitBytes n st s = .next t →
      trackDataIndex { t with tickCount := t.sched.command.trigger } = t.fdc.targetDataIndex)

/-! ## Ports -/

/-- Port 0xF3: a read answers `data_register` and clears `drq`; a disabled FDC answers 0xFF and changes nothing (R236). -/
def Obligations.DataPortRead : Prop :=
  ∀ s : State,
    (s.fdc.enabled = true → portIn 0xF3#8 s = .next { s with
      fdc := { s.fdc with drq := false }, outputs := s.outputs ++ [.busRead 0xF3#8 s.fdc.dataRegister] }) ∧
    (s.fdc.enabled = false → portIn 0xF3#8 s = .next { s with outputs := s.outputs ++ [.busRead 0xF3#8 0xFF#8] })

/-- Ports 0xF1 and 0xF2 read and write the track and sector register and nothing else, also while busy; a write of 0xF3 sets
the data register and clears `drq`; a disabled FDC ignores writes and answers 0xFF (R234, R235, R237, R64; decisions D22,
D28, D46). -/
def Obligations.RegisterPorts : Prop :=
  ∀ (s : State) (v : Byte),
    (s.fdc.enabled = true →
      portOut 0xF1#8 v s = .next { s with fdc := { s.fdc with trackRegister := v } } ∧
      portOut 0xF2#8 v s = .next { s with fdc := { s.fdc with sectorRegister := v } } ∧
      portOut 0xF3#8 v s = .next { s with fdc := { s.fdc with dataRegister := v, drq := false } } ∧
      portIn 0xF1#8 s = .next { s with outputs := s.outputs ++ [.busRead 0xF1#8 s.fdc.trackRegister] } ∧
      portIn 0xF2#8 s = .next { s with outputs := s.outputs ++ [.busRead 0xF2#8 s.fdc.sectorRegister] }) ∧
    (s.fdc.enabled = false →
      portOut 0xF1#8 v s = .next s ∧ portOut 0xF2#8 v s = .next s ∧ portOut 0xF3#8 v s = .next s ∧
      portOut 0xF4#8 v s = .next s ∧
      portIn 0xF1#8 s = .next { s with outputs := s.outputs ++ [.busRead 0xF1#8 0xFF#8] } ∧
      portIn 0xF2#8 s = .next { s with outputs := s.outputs ++ [.busRead 0xF2#8 0xFF#8] })

/-- The status read: it unlatches `FdcNmi` and answers the byte of the command's layout, bit by bit, at the tick of the read
(R103, R104, R105, R233; decisions D11, D12); a disabled FDC answers 0xFF, and its latches stay (R64, decision D28). -/
def Obligations.StatusRead : Prop :=
  (∀ s : State, s.fdc.enabled = false →
    portIn 0xF0#8 s = .next { s with outputs := s.outputs ++ [.busRead 0xF0#8 0xFF#8] }) ∧
  ∀ s : State, s.fdc.enabled = true → ∃ v : Byte,
    portIn 0xF0#8 s = .next { s with
      latches := { s.latches with fdcNmi := false }, outputs := s.outputs ++ [.busRead 0xF0#8 v] } ∧
    v.getLsbD 7 = !s.fdc.motorOn ∧ v.getLsbD 0 = s.fdc.busy ∧
    (s.fdc.command ∈ [.restore, .seek, .step, .reset, .forceInterrupt, .forceInterruptImmediate] →
      (v.getLsbD 6 = true ↔ ∃ d, s.fdc.currentDrive = some d ∧ (s.drives.get d).writeProtected = true) ∧
      v.getLsbD 5 = s.fdc.motorOn ∧ v.getLsbD 4 = s.fdc.seekError ∧ v.getLsbD 3 = s.fdc.crcError ∧
      (v.getLsbD 2 = true ↔ ∃ d, s.fdc.currentDrive = some d ∧ (s.drives.get d).physicalTrack = 0) ∧
      (v.getLsbD 1 = true ↔ s.fdc.motorOn = true ∧ diskAngle s < 10000)) ∧
    (s.fdc.command ∈ [.readSector, .writeSector, .readAddress, .readTrack, .writeTrack] →
      v.getLsbD 6 = (s.fdc.writeProtected && decide (s.fdc.command = .writeSector ∨ s.fdc.command = .writeTrack)) ∧
      v.getLsbD 5 = (s.fdc.sectorDeleted && decide (s.fdc.command = .readSector)) ∧
      v.getLsbD 4 = (s.fdc.seekError && decide (s.fdc.command ≠ .readTrack ∧ s.fdc.command ≠ .writeTrack)) ∧
      v.getLsbD 3 = (s.fdc.crcError && decide (s.fdc.command ≠ .readTrack ∧ s.fdc.command ≠ .writeTrack)) ∧
      v.getLsbD 2 = s.fdc.lostData ∧ v.getLsbD 1 = s.fdc.drq)

/-- A write of port 0xF4: the lowest set bit of 3:0 selects the drive, bits 4 and 7 the side and the density, bit 6 asks for
the CPU wait; with the motor on its 2 s timer restarts, else the 10 µs timer starts unless it runs (R106, R245; decision
D27). -/
def Obligations.DriveSelectBinds : Prop :=
  ∀ (s : State) (v : Byte), s.fdc.enabled = true →
    portOut 0xF4#8 v s = .next { s with
      fdc := { s.fdc with
        currentDrive :=
          if v.getLsbD 0 then some .d0 else if v.getLsbD 1 then some .d1 else if v.getLsbD 2 then some .d2
          else if v.getLsbD 3 then some .d3 else none
        sideOneSelected := v.getLsbD 4, doubleDensity := v.getLsbD 7 }
      outputs := s.outputs ++ (if v.getLsbD 6 then [.cpuWait] else [])
      sched :=
        if s.fdc.motorOn then { s.sched with
          nextSeq := s.sched.nextSeq + 1
          motorOff := { active := true, trigger := s.tickCount + 2000000 * s.params.tps / 1000000
                        seq := s.sched.nextSeq, basis := .microseconds, delay := 2000000, callback := .motorOffCallback } }
        else if s.sched.motorOn.active then s.sched
        else { s.sched with
          nextSeq := s.sched.nextSeq + 1
          motorOn := { active := true, trigger := s.tickCount + 10 * s.params.tps / 1000000
                       seq := s.sched.nextSeq, basis := .microseconds, delay := 10, callback := .motorOnCallback } } }

/-- The callbacks beside `FdcAdvance`. `MotorOnCallback` starts the motor and its 2 s timer (R251); `MotorOffCallback` stops it
and latches `FdcMotorOffNmi`, and touches no running command (R252; decision D27); both tell the sound sink (R156). `Poll`
runs its continuation in the same step, on target or not; a miss is only noted (R153; the note is decision D45's). -/
def Obligations.CallbacksRun : Prop :=
  ∀ s : State,
    runCallback .motorOnCallback s = .next { s with
      fdc := { s.fdc with motorOn := true }, outputs := s.outputs ++ [.driveMotorRunning true]
      sched := { s.sched with
        nextSeq := s.sched.nextSeq + 1
        motorOff := { active := true, trigger := s.tickCount + 2000000 * s.params.tps / 1000000, seq := s.sched.nextSeq
                      basis := .microseconds, delay := 2000000, callback := .motorOffCallback } } } ∧
    runCallback .motorOffCallback s = .next { s with
      fdc := { s.fdc with motorOn := false }, outputs := s.outputs ++ [.driveMotorRunning false]
      latches := { s.latches with fdcMotorOffNmi := true } } ∧
    runCallback .fdcAdvance s = fdcAdvance s ∧
    runCallback .poll s = fdcAdvance { s with
      fdc := { s.fdc with isPolling := false, nextCallback := none }
      outputs := s.outputs ++ (if trackDataIndex s = s.fdc.targetDataIndex then [] else [.syncFault]) }

/-! ## Cassette -/

/-- A read of the cassette port: with a transition bit 7 is the flip-flop, bit 0 the last polarity, the rest 0, and the
clearing is pending; with none the byte is 0x00 and nothing changes (R185; decision D35). -/
def Obligations.CassettePortRead : Prop :=
  ∀ s : State, s.params.wf = true →
    (s.cas.transition = none → portIn s.params.cassettePort s =
      .next { s with outputs := s.outputs ++ [.busRead s.params.cassettePort 0x00#8] }) ∧
    (∀ t, s.cas.transition = some t → portIn s.params.cassettePort s = .next { s with
      cas := { s.cas with transition := some { t with clearPending := true } }
      outputs := s.outputs ++ [.busRead s.params.cassettePort
        ((if t.flipFlop then 0x80#8 else 0x00#8) ||| (if t.lastNonZero = .positive then 0x01#8 else 0x00#8))] })

/-- `UpdateMotor()`: the composite signal going true turns the motor on, and starts a read unless recording; going false it
drops the transition and its request; else nothing changes (R172). -/
def Obligations.MotorFollowsSignals : Prop :=
  ∀ s : State,
    let new := s.cas.motorEngaged && s.cas.motorOnSignal
    (new = true → s.cas.motorOn = false → s.cas.recordInvoked = true →
      updateMotor s = .next { s with cas := { s.cas with motorOn := true } }) ∧
    (new = true → s.cas.motorOn = false → s.cas.recordInvoked = false → s.cas.byteCursor < s.cas.data.size →
      updateMotor s = .next (startRead { s with cas := { s.cas with motorOn := true } })) ∧
    (new = false → s.cas.motorOn = true → updateMotor s = .next { s with
      cas := { s.cas with motorOn := false, transition := none }
      sched := { s.sched with read := { s.sched.read with active := false } } }) ∧
    (new = s.cas.motorOn → updateMotor s = .next s)

/-- The deck: Play, Record, Rewind and InsertTape are enabled only while the motor is not engaged; Rewind goes to the tape's
first bit and clears the header counters; an inserted tape reads as its bytes; Stop turns everything off. Play and Record with
the motor signal on, and the motor signal going on with the motor engaged, turn the motor on at once: to read, or to write; the
signal going off turns it off (R172 to R174, R177 to R179, R188; decisions D31, D39). -/
def Obligations.DeckActions : Prop :=
  (∀ (s : State) (bytes : List Byte), s.cas.motorEngaged = true →
    play s = .refused .deckNotEnabled ∧ record s = .refused .deckNotEnabled ∧ rewind s = .refused .deckNotEnabled ∧
      insertTape bytes s = .refused .deckNotEnabled) ∧
  (∀ s : State, s.cas.motorEngaged = false → rewind s = .next { s with
    cas := { s.cas with byteCursor := 0, bitCursor := 7, consecutiveFiftyFives := 0, consecutiveZeros := 0 } }) ∧
  (∀ (s : State) (bytes : List Byte), s.cas.motorEngaged = false → 1 ≤ bytes.length → bytes.length ≤ 73728 →
    ∃ m : Memory, m.wf = true ∧ m.size = bytes.length ∧ (∀ i, m.read? i = bytes[i]?) ∧
      insertTape bytes s = .next { s with
        cas := { s.cas with
          data := m, isBlank := decide (∀ b ∈ bytes, b = 0x00#8), changed := false, byteCursor := 0, bitCursor := 7
          consecutiveFiftyFives := 0, consecutiveZeros := 0 } }) ∧
  (∀ s : State, s.cas.motorEngaged = false → s.cas.motorOnSignal = false → s.cas.motorOn = false →
    play s = .next { s with cas := { s.cas with motorEngaged := true, recordInvoked := false } } ∧
    record s = .next { s with cas := { s.cas with motorEngaged := true, recordInvoked := true } }) ∧
  (∀ s : State, (s.cas.motorOn = true →
      stopTape s = { s with
        cas := { s.cas with motorEngaged := false, recordInvoked := false, motorOn := false, transition := none }
        sched := { s.sched with read := { s.sched.read with active := false } } }) ∧
    (s.cas.motorOn = false →
      stopTape s = { s with cas := { s.cas with motorEngaged := false, recordInvoked := false } })) ∧
  (∀ s : State, s.cas.motorEngaged = false → s.cas.motorOnSignal = true → s.cas.motorOn = false →
    (s.cas.byteCursor < s.cas.data.size →
      play s = .next (startRead { s with
        cas := { s.cas with motorEngaged := true, recordInvoked := false, motorOn := true } })) ∧
    record s = .next { s with cas := { s.cas with motorEngaged := true, recordInvoked := true, motorOn := true } }) ∧
  (∀ s : State,
    (s.cas.motorEngaged = true → s.cas.motorOn = false → s.cas.recordInvoked = false →
      s.cas.byteCursor < s.cas.data.size →
        setMotorSignal true s = .next (startRead { s with
          cas := { s.cas with motorOnSignal := true, motorOn := true } })) ∧
    (s.cas.motorEngaged = true → s.cas.motorOn = false → s.cas.recordInvoked = true →
      setMotorSignal true s = .next { s with cas := { s.cas with motorOnSignal := true, motorOn := true } }) ∧
    (s.cas.motorEngaged = s.cas.motorOn →
      setMotorSignal true s = .next { s with cas := { s.cas with motorOnSignal := true } }) ∧
    (s.cas.motorOn = true → setMotorSignal false s = .next { s with
      cas := { s.cas with motorOnSignal := false, motorOn := false, transition := none }
      sched := { s.sched with read := { s.sched.read with active := false } } }) ∧
    (s.cas.motorOn = false →
      setMotorSignal false s = .next { s with cas := { s.cas with motorOnSignal := false } }))

/-- The read waveform and the cursor behind it. `AdvanceCursor(false)` moves within the byte; at a byte's end the byte left is
fed to the header detector, which sets the speed from the 21st byte of a run on, and the cursor goes to the next byte; at the
tape's end the tape stops on its last bit (R175, R180). `StartRead()`, and `CassetteReadCallback` at the end of a bit's last
phase, begin the bit under the cursor at the speed found then, or, on the tape's last bit, stop without producing it (R181,
R183, R184). At the end of a phase that another of the same bit follows, the callback enters the next phase of the table: its
edge is latched, a pending clear of the flip-flop comes first, and the request aims at the new end (R182 to R184). Decisions
D33 to D36, D38 and D43, log 17. -/
def Obligations.WaveformRuns : Prop :=
  (∀ s : State,
    (TapeGoesOn s.cas → advanceCursor false s = { s with cas := cursorRead s.cas }) ∧
    (¬ TapeGoesOn s.cas → s.cas.motorOn = true →
      advanceCursor false s = tapeStopped (headerFed (s.cas.data.byteAt s.cas.byteCursor) s.cas) s)) ∧
  (∀ s : State,
    (TapeGoesOn s.cas → startRead s = bitBegins (freshTransition s.tickCount) s) ∧
    (¬ TapeGoesOn s.cas → s.cas.motorOn = true →
      startRead s = tapeStopped (headerFed (s.cas.data.byteAt s.cas.byteCursor) s.cas) s)) ∧
  (∀ (s : State) (t : Transition),
    s.cas.transition = some t → t.phaseEnd = s.tickCount → s.cas.byteCursor < s.cas.data.size →
    (t.phase ∈ [.start, .hiNeg, .loPostDat] ∨ (t.phase = .loPostClk ∧ t.bit = false)) →
    (TapeGoesOn s.cas → 0 < s.params.loPulsePos → cassetteReadCallback s = .next (bitBegins t s)) ∧
    (¬ TapeGoesOn s.cas → s.cas.motorOn = true →
      cassetteReadCallback s =
        .next (tapeStopped (headerFed (s.cas.data.byteAt s.cas.byteCursor) s.cas) s))) ∧
  (∀ (s : State) (t : Transition) (ph : Phase) (pol : Polarity) (dur : Nat),
    s.cas.transition = some t → t.phaseEnd = s.tickCount → s.cas.byteCursor < s.cas.data.size →
    phaseAfter s.params t.bit t.phase = some (ph, pol, dur) → 0 < dur →
      cassetteReadCallback s = .next (readArmed dur { s with
        cas := { s.cas with
          transition := some
            { phase := ph, bit := t.bit, phaseEnd := t.phaseEnd + dur, before := t.after, after := pol
              lastNonZero := if pol = .zero then t.lastNonZero else pol
              flipFlop := (t.flipFlop && !t.clearPending) || decide (pol = .positive ∧ t.after ≠ .positive)
              clearPending := false } }
        latches := { s.latches with
          cassetteRisingEdge := s.latches.cassetteRisingEdge || decide (pol = .positive ∧ t.after ≠ .positive)
          cassetteFallingEdge := s.latches.cassetteFallingEdge || decide (pol = .negative ∧ t.after ≠ .negative) } }))

/-- `CassetteReadCallback` catches up: after it no phase has ended that the transition still stands in, and the request aims at
the end of the phase it stands in; the FDC, the drives and the tape's bytes are untouched (R184). -/
def Obligations.ReadCallbackCatchesUp : Prop :=
  ∀ s u : State, cassetteReadCallback s = .next u →
    (∀ t, u.cas.transition = some t →
      u.tickCount < t.phaseEnd ∧ u.sched.read.active = true ∧ u.sched.read.trigger = t.phaseEnd ∧
        u.sched.read.callback = .cassetteReadCallback) ∧
    u.fdc = s.fdc ∧ u.drives = s.drives ∧ u.cas.data = s.cas.data ∧ u.tickCount = s.tickCount

/-- `WriteBit` sets exactly the bit under the cursor and no other bit of the tape, notes the change, and moves the cursor on:
within the byte, to the next byte, into a grown tape, or it stops the tape (R175, R176, R195; decision D38). -/
def Obligations.TapeBitWritten : Prop :=
  ∀ (s : State) (b : Bool), CassetteInv s →
    let u := writeBit b s
    (∀ i j, i < s.cas.data.size → j < 8 →
      (u.cas.data.byteAt i).getLsbD j =
        if i = s.cas.byteCursor ∧ j = s.cas.bitCursor then b else (s.cas.data.byteAt i).getLsbD j) ∧
    (∀ i, s.cas.data.size ≤ i → i < u.cas.data.size → tapeByte u i = some 0x00#8) ∧
    u.cas.isBlank = (s.cas.isBlank && !b) ∧ u.cas.changed = true ∧
    (0 < s.cas.bitCursor →
      u.cas.byteCursor = s.cas.byteCursor ∧ u.cas.bitCursor = s.cas.bitCursor - 1 ∧
        u.cas.data.size = s.cas.data.size ∧ u.cas.motorEngaged = s.cas.motorEngaged) ∧
    (s.cas.bitCursor = 0 → s.cas.byteCursor + 1 < s.cas.data.size →
      u.cas.byteCursor = s.cas.byteCursor + 1 ∧ u.cas.bitCursor = 7 ∧ u.cas.data.size = s.cas.data.size ∧
        u.cas.motorEngaged = s.cas.motorEngaged) ∧
    (s.cas.bitCursor = 0 → s.cas.byteCursor + 1 = s.cas.data.size →
      s.cas.data.size < min 73728 (s.cas.data.size * 11 / 10) →
        u.cas.data.size = min 73728 (s.cas.data.size * 11 / 10) ∧ u.cas.byteCursor = s.cas.byteCursor + 1 ∧
          u.cas.bitCursor = 7 ∧ u.cas.motorEngaged = s.cas.motorEngaged) ∧
    (s.cas.bitCursor = 0 → s.cas.byteCursor + 1 = s.cas.data.size →
      min 73728 (s.cas.data.size * 11 / 10) ≤ s.cas.data.size →
        u.cas.data.size = s.cas.data.size ∧ u.cas.byteCursor = s.cas.byteCursor ∧ u.cas.bitCursor = 0 ∧
          u.cas.motorEngaged = false ∧ u.cas.motorOn = false)

/-- A write of the cassette port. A repeated polarity does nothing; a change to Negative or Zero, and one to Positive while
not writing, drops a pending flip-flop, notes the polarity and measures nothing (R190). A positive edge while writing is timed
against the one before: the high classes count up, lock High above 8 and write a bit; the low classes count down, lock Low
below −8 and write a bit or skip the clock pulse (R191 to R193). Edges of no class only move the timestamps. That the ends of
the ranges are inclusive, that ignored edges move the timestamps and that only Writing measures is decision D37, log 17. -/
def Obligations.WriteEdgesClassified : Prop :=
  (∀ (s : State) (v : Byte), s.params.wf = true →
    (portPolarity v = s.cas.lastWritePolarity → portOut s.params.cassettePort v s = .next s) ∧
    (portPolarity v ≠ s.cas.lastWritePolarity →
      (portPolarity v ≠ .positive ∨ s.cas.motorOn = false ∨ s.cas.recordInvoked = false) →
        portOut s.params.cassettePort v s = .next (polarityNoted (portPolarity v) s))) ∧
  ∀ (s : State) (v : Byte), s.params.wf = true → s.cas.motorOn = true → s.cas.recordInvoked = true →
    s.cas.byteCursor < s.cas.data.size → portPolarity v = .positive → s.cas.lastWritePolarity ≠ .positive →
    let d := s.tickCount - s.cas.lastWritePositive
    let c := edgeTimed s.tickCount s.cas
    let e := s.cas.highSpeedWriteEvidence
    let up :=
      { c with
        highSpeedWriteEvidence := min 16 (e + 1), speed := if 8 < min 16 (e + 1) then .high else c.speed }
    let down :=
      { c with
        highSpeedWriteEvidence := max (-16) (e - 1), speed := if max (-16) (e - 1) < -8 then .low else c.speed }
    let high := (721000 ≤ d ∧ d ≤ 797000) ∨ (1459000 ≤ d ∧ d ≤ 1861000)
    let low := (1923000 ≤ d ∧ d ≤ 2281000) ∨ (3858000 ≤ d ∧ d ≤ 4379000)
    let noted (u : State) : Host.Outcome State Fault Refusal :=
      .next { u with cas := { u.cas with lastWritePolarity := .positive } }
    (high → portOut s.params.cassettePort v s = noted (writeBit (decide (d < 1200000)) { s with cas := up })) ∧
    (low → s.cas.skippedLast = true →
      portOut s.params.cassettePort v s = noted (writeBit true { s with cas := { down with skippedLast := false } })) ∧
    (low → s.cas.skippedLast = false → 3000000 < d →
      portOut s.params.cassettePort v s = noted (writeBit false { s with cas := down })) ∧
    (low → s.cas.skippedLast = false → d ≤ 3000000 →
      portOut s.params.cassettePort v s = noted { s with cas := { down with skippedLast := true } }) ∧
    (¬ high → ¬ low → portOut s.params.cassettePort v s = noted { s with cas := c })

/-! ## CRC -/

/-- The generator: its single steps and check value (R421), the two presets (R424), the table of R425, and that the CRC of a
field followed by its own CRC, high byte first, is zero (R425). The polynomial is decision D44, from general knowledge (G9;
log 17). -/
def Obligations.OwnCrcGivesZero : Prop :=
  (∀ (c : Crc16) (field : List Byte),
    let stored := crcBytes c field
    crcBytes c (field ++ [stored.extractLsb' 8 8, stored.extractLsb' 0 8]) = 0x0000#16) ∧
  (crcByte 0x0000#16 0x00#8 = 0x0000#16 ∧ crcByte 0x0000#16 0x01#8 = 0x1021#16 ∧
    crcByte 0x0000#16 0x80#8 = 0x9188#16 ∧ crcByte 0xFFFF#16 0x00#8 = 0xE1F0#16 ∧
    crcByte 0xFFFF#16 0xFF#8 = 0xFF00#16 ∧
    crcBytes 0xFFFF#16 [0x31#8, 0x32#8, 0x33#8, 0x34#8, 0x35#8, 0x36#8, 0x37#8, 0x38#8, 0x39#8] = 0x29B1#16) ∧
  (crcPreset true = 0xCDB4#16 ∧ crcPreset false = 0xFFFF#16 ∧ crcBytes 0xFFFF#16 [0xA1#8] = 0x443B#16 ∧
    crcBytes 0xFFFF#16 [0xA1#8, 0xA1#8] = 0x968B#16 ∧ crcBytes 0xFFFF#16 [0xA1#8, 0xA1#8, 0xA1#8] = 0xCDB4#16) ∧
  (∀ row ∈ ([
      ([0xFE#8], 0xB230#16, 0xEF21#16),
      ([0xFB#8], 0xE295#16, 0xBF84#16),
      ([0xF8#8], 0xD2F6#16, 0x8FE7#16),
      ([0xFE#8, 0x05#8, 0x00#8, 0x01#8, 0x00#8], 0x5668#16, 0x6E86#16),
      ([0xFE#8, 0x00#8, 0x00#8, 0x01#8, 0x00#8], 0xEA2D#16, 0xD2C3#16),
      (0xFB#8 :: List.replicate 128 0xE5#8, 0x62A7#16, 0x5D30#16)] : List (List Byte × Crc16 × Crc16)),
    crcBytes (crcPreset true) row.1 = row.2.1 ∧ crcBytes (crcPreset false) row.1 = row.2.2) ∧
  crcBytes (crcPreset false) [0xFE#8, 0x02#8, 0x00#8, 0x03#8, 0x00#8] = 0x59C9#16

/-! ## The machine as a whole -/

/-- The reset state meets the invariant of Safety (R35, R42, R46, R60, R134). -/
def Obligations.InvariantAtReset : Prop := Inv State.reset

/-- The values of the reset table (R50; the spec's decisions D30 and D39), and that nothing is pending or latched after reset
(R482). -/
def Obligations.ResetValues : Prop :=
  let s := State.reset
  s.tickCount = 0 ∧ s.sched.nextSeq = 0 ∧ (∀ q, (s.sched.get q).active = false) ∧ (∀ l, s.latches.get l = false) ∧
  s.fdc.trackRegister = 0x00#8 ∧ s.fdc.sectorRegister = 0x00#8 ∧ s.fdc.commandRegister = 0x00#8 ∧
  s.fdc.dataRegister = 0x00#8 ∧ s.fdc.busy = false ∧ s.fdc.drq = false ∧ s.fdc.seekError = false ∧
  s.fdc.crcError = false ∧ s.fdc.lostData = false ∧ s.fdc.writeProtected = false ∧ s.fdc.motorOn = false ∧
  s.fdc.sectorDeleted = false ∧ s.fdc.doubleDensity = false ∧ s.fdc.lastStepDirUp = true ∧
  s.fdc.verify = false ∧ s.fdc.delay = false ∧ s.fdc.updateRegisters = false ∧ s.fdc.sideSelectVerify = false ∧
  s.fdc.sideOneExpected = false ∧ s.fdc.markSectorDeleted = false ∧ s.fdc.multipleRecords = false ∧
  s.fdc.readAddressData =
    { track := 0x00#8, side := 0x00#8, sector := 0x00#8, size := 0x00#8, crcHi := 0x00#8, crcLo := 0x00#8 } ∧
  s.fdc.readAddressIndex = 0 ∧ s.fdc.idamBytesFound = 0 ∧ s.fdc.damBytesChecked = 0 ∧ s.fdc.sectorLength = 0 ∧
  s.fdc.bytesRead = 0 ∧ s.fdc.bytesToWrite = 0 ∧ s.fdc.crc = 0x0000#16 ∧ s.fdc.crcCalc = 0x0000#16 ∧
  s.fdc.crcHigh = 0x00#8 ∧ s.fdc.crcLow = 0x00#8 ∧ s.fdc.targetDataIndex = 0 ∧ s.fdc.indexCheckStartTick = 0 ∧
  s.fdc.currentDrive = none ∧ s.fdc.sideOneSelected = false ∧
  (∀ d, s.drives.get d = { physicalTrack := 0, writeProtected := false, floppy := none }) ∧
  s.fdc.command = .reset ∧ s.fdc.opStatus = .opDone ∧ s.fdc.isPolling = false ∧ s.fdc.nextCallback = none ∧
  s.fdc.enabled = true ∧ s.cas.data.size = 2048 ∧ (∀ i, i < 2048 → tapeByte s i = some 0x00#8) ∧
  s.cas.byteCursor = 0 ∧ s.cas.bitCursor = 7 ∧ s.cas.isBlank = true ∧ s.cas.changed = false ∧ s.cas.speed = .high ∧
  s.cas.motorEngaged = false ∧ s.cas.motorOnSignal = false ∧ s.cas.recordInvoked = false ∧
  s.cas.lastWritePositive = 0 ∧ s.cas.nextLastWritePositive = 0 ∧ s.cas.consecutiveFiftyFives = 0 ∧
  s.cas.consecutiveZeros = 0 ∧ s.cas.motorOn = false ∧ s.cas.transition = none ∧ s.cas.lastWritePolarity = .zero ∧
  s.cas.highSpeedWriteEvidence = 0 ∧ s.cas.skippedLast = false

/-- Every step keeps the invariant of Safety: `busy` exactly while a command runs, `drq` only in a transfer, heads within 0 to
80, each request with its own callback and never past its trigger, the cassette's cursor, motor and evidence as R42 and
R46 say, tape and disks in their canonical form (R35, R38, R42, R46, R131, R142). -/
def Obligations.InvariantKept : Prop := ∀ s t : State, Inv s → step s = .next t → Inv t

/-- From a state with the invariant no step faults, and a refusal is one of an input or of the clock's end; left alone the
block always goes on, but for the clock's end and for a firing over a track of odd length in single density (R72, R142).
Which inputs are refused is the model's and the spec's choice: logs 4, 9 and 12 (inputs that are not enabled, bytes while busy,
other ports), 10 (odd length), 5 (the clock's end) and 3 (what the block does by itself). -/
def Obligations.OnlyInputsAreRefused : Prop :=
  ∀ s : State, Inv s →
    (∀ f, step s ≠ .fault f) ∧ (∀ r, step s = .refused r → r.ofInput = true) ∧
    (s.inputs = [] → ∀ r, step s = .refused r → r = .tickOverflow ∨ r = .oddTrackLength)

/-- Disk bytes and IDAM bits change in one way only: by WriteSector or WriteTrack in a state that writes, and then only the
logical byte under the head of the selected drive; a media change and the platform reset apart (R67, R68, R77, R407; the
doubled byte of single density is decision D8, log 17). -/
def Obligations.OnlyWritesChangeDisks : Prop :=
  ∀ s t : State, step s = .next t → resetsNext s = false → changesMediaNext s = false →
    ∀ d c sd i,
      (mediaByte t d c sd i ≠ mediaByte s d c sd i ∨ mediaMark t d c sd i ≠ mediaMark s d c sd i) →
        underHead s d c sd i ∧
        ((s.fdc.command = .writeSector ∧ s.fdc.opStatus ∈ [.writeFiller, .writeSync, .writeDAM, .writingData,
            .writeCRCHigh, .writeCRCLow, .writeTrailer]) ∨
          (s.fdc.command = .writeTrack ∧ s.fdc.opStatus ∈ [.seekingIndexHole, .writingData, .writeCRCLow]))

/-- A head moves only if its drive is the selected one, by one track, within 0 to 80, and the track step is emitted (R29, R156,
R287, R288); the platform reset apart. -/
def Obligations.HeadsMoveOneTrack : Prop :=
  ∀ s t : State, step s = .next t → resetsNext s = false →
    ∀ d, (t.drives.get d).physicalTrack ≠ (s.drives.get d).physicalTrack →
      s.fdc.currentDrive = some d ∧ Output.trackStep ∈ t.outputs ∧
      ((t.drives.get d).physicalTrack = (s.drives.get d).physicalTrack + 1 ∧ (t.drives.get d).physicalTrack ≤ 80 ∨
        (t.drives.get d).physicalTrack + 1 = (s.drives.get d).physicalTrack)

/-- A latch that is set stays set until the interrupt manager unlatches it; only `FdcNmi` is also unlatched by the block, at
a status read and at a command start; the platform reset apart (R23, R452, R453, R455; decisions D11, D42). -/
def Obligations.LatchesHold : Prop :=
  ∀ s t : State, step s = .next t → resetsNext s = false →
    ∀ l, s.latches.get l = true → t.latches.get l = false →
      s.inputs.head? = some (.unlatch l) ∨
      (l = .fdcNmi ∧ s.fdc.enabled = true ∧
        (s.inputs.head? = some (.portIn 0xF0#8) ∨
          ∃ v, s.inputs.head? = some (.portOut 0xF0#8 v) ∧ s.fdc.busy = false ∧ v.extractLsb' 4 4 ≠ 0xD#4))

/-- No step changes the configuration, and none but the platform reset changes `enabled` (R8, R34, R460). -/
def Obligations.ConfigurationIsFixed : Prop :=
  ∀ s t : State, step s = .next t →
    t.params = s.params ∧ (resetsNext s = false → t.fdc.enabled = s.fdc.enabled) ∧
      (resetsNext s = true → t.fdc.enabled = s.params.fdcEnabledAtReset)

end
end

