-- ==== Sys2Proof/Laws/State.lean ====
section
/-! SUPPORT. The fields of a state after each shared update, one lemma per field, true by definition: no proof about a
sequence of updates has to unfold a record update. -/

namespace Sys2Proof.Machine

section

variable (s : State)

/-! ### register -/

@[simp] theorem register_params (q : RequestId) (b : Basis) (n : Nat) (cb : Callback) : (register q b n cb s).params = s.params := rfl
@[simp] theorem register_tickCount (q : RequestId) (b : Basis) (n : Nat) (cb : Callback) : (register q b n cb s).tickCount = s.tickCount := rfl
@[simp] theorem register_latches (q : RequestId) (b : Basis) (n : Nat) (cb : Callback) : (register q b n cb s).latches = s.latches := rfl
@[simp] theorem register_fdc (q : RequestId) (b : Basis) (n : Nat) (cb : Callback) : (register q b n cb s).fdc = s.fdc := rfl
@[simp] theorem register_drives (q : RequestId) (b : Basis) (n : Nat) (cb : Callback) : (register q b n cb s).drives = s.drives := rfl
@[simp] theorem register_cas (q : RequestId) (b : Basis) (n : Nat) (cb : Callback) : (register q b n cb s).cas = s.cas := rfl
@[simp] theorem register_draws (q : RequestId) (b : Basis) (n : Nat) (cb : Callback) : (register q b n cb s).draws = s.draws := rfl
@[simp] theorem register_inputs (q : RequestId) (b : Basis) (n : Nat) (cb : Callback) : (register q b n cb s).inputs = s.inputs := rfl
@[simp] theorem register_outputs (q : RequestId) (b : Basis) (n : Nat) (cb : Callback) : (register q b n cb s).outputs = s.outputs := rfl

/-! ### expire -/

@[simp] theorem expire_params (q : RequestId) : (expire q s).params = s.params := rfl
@[simp] theorem expire_tickCount (q : RequestId) : (expire q s).tickCount = s.tickCount := rfl
@[simp] theorem expire_latches (q : RequestId) : (expire q s).latches = s.latches := rfl
@[simp] theorem expire_fdc (q : RequestId) : (expire q s).fdc = s.fdc := rfl
@[simp] theorem expire_drives (q : RequestId) : (expire q s).drives = s.drives := rfl
@[simp] theorem expire_cas (q : RequestId) : (expire q s).cas = s.cas := rfl
@[simp] theorem expire_draws (q : RequestId) : (expire q s).draws = s.draws := rfl
@[simp] theorem expire_inputs (q : RequestId) : (expire q s).inputs = s.inputs := rfl
@[simp] theorem expire_outputs (q : RequestId) : (expire q s).outputs = s.outputs := rfl

/-! ### latch -/

@[simp] theorem latch_params (l : Latch) : (latch l s).params = s.params := rfl
@[simp] theorem latch_tickCount (l : Latch) : (latch l s).tickCount = s.tickCount := rfl
@[simp] theorem latch_sched (l : Latch) : (latch l s).sched = s.sched := rfl
@[simp] theorem latch_fdc (l : Latch) : (latch l s).fdc = s.fdc := rfl
@[simp] theorem latch_drives (l : Latch) : (latch l s).drives = s.drives := rfl
@[simp] theorem latch_cas (l : Latch) : (latch l s).cas = s.cas := rfl
@[simp] theorem latch_draws (l : Latch) : (latch l s).draws = s.draws := rfl
@[simp] theorem latch_inputs (l : Latch) : (latch l s).inputs = s.inputs := rfl
@[simp] theorem latch_outputs (l : Latch) : (latch l s).outputs = s.outputs := rfl

/-! ### unlatch -/

@[simp] theorem unlatch_params (l : Latch) : (unlatch l s).params = s.params := rfl
@[simp] theorem unlatch_tickCount (l : Latch) : (unlatch l s).tickCount = s.tickCount := rfl
@[simp] theorem unlatch_sched (l : Latch) : (unlatch l s).sched = s.sched := rfl
@[simp] theorem unlatch_fdc (l : Latch) : (unlatch l s).fdc = s.fdc := rfl
@[simp] theorem unlatch_drives (l : Latch) : (unlatch l s).drives = s.drives := rfl
@[simp] theorem unlatch_cas (l : Latch) : (unlatch l s).cas = s.cas := rfl
@[simp] theorem unlatch_draws (l : Latch) : (unlatch l s).draws = s.draws := rfl
@[simp] theorem unlatch_inputs (l : Latch) : (unlatch l s).inputs = s.inputs := rfl
@[simp] theorem unlatch_outputs (l : Latch) : (unlatch l s).outputs = s.outputs := rfl

/-! ### emit -/

@[simp] theorem emit_params (e : Output) : (emit e s).params = s.params := rfl
@[simp] theorem emit_tickCount (e : Output) : (emit e s).tickCount = s.tickCount := rfl
@[simp] theorem emit_sched (e : Output) : (emit e s).sched = s.sched := rfl
@[simp] theorem emit_latches (e : Output) : (emit e s).latches = s.latches := rfl
@[simp] theorem emit_fdc (e : Output) : (emit e s).fdc = s.fdc := rfl
@[simp] theorem emit_drives (e : Output) : (emit e s).drives = s.drives := rfl
@[simp] theorem emit_cas (e : Output) : (emit e s).cas = s.cas := rfl
@[simp] theorem emit_draws (e : Output) : (emit e s).draws = s.draws := rfl
@[simp] theorem emit_inputs (e : Output) : (emit e s).inputs = s.inputs := rfl

/-! ### waitTime -/

@[simp] theorem waitTime_params (us : Nat) (n : OpStatus) : (waitTime us n s).params = s.params := rfl
@[simp] theorem waitTime_tickCount (us : Nat) (n : OpStatus) : (waitTime us n s).tickCount = s.tickCount := rfl
@[simp] theorem waitTime_latches (us : Nat) (n : OpStatus) : (waitTime us n s).latches = s.latches := rfl
@[simp] theorem waitTime_drives (us : Nat) (n : OpStatus) : (waitTime us n s).drives = s.drives := rfl
@[simp] theorem waitTime_cas (us : Nat) (n : OpStatus) : (waitTime us n s).cas = s.cas := rfl
@[simp] theorem waitTime_draws (us : Nat) (n : OpStatus) : (waitTime us n s).draws = s.draws := rfl
@[simp] theorem waitTime_inputs (us : Nat) (n : OpStatus) : (waitTime us n s).inputs = s.inputs := rfl
@[simp] theorem waitTime_outputs (us : Nat) (n : OpStatus) : (waitTime us n s).outputs = s.outputs := rfl

/-! ### armByteWait -/

@[simp] theorem armByteWait_params (k : Nat) (n : OpStatus) : (armByteWait k n s).params = s.params := rfl
@[simp] theorem armByteWait_tickCount (k : Nat) (n : OpStatus) : (armByteWait k n s).tickCount = s.tickCount := rfl
@[simp] theorem armByteWait_latches (k : Nat) (n : OpStatus) : (armByteWait k n s).latches = s.latches := rfl
@[simp] theorem armByteWait_drives (k : Nat) (n : OpStatus) : (armByteWait k n s).drives = s.drives := rfl
@[simp] theorem armByteWait_cas (k : Nat) (n : OpStatus) : (armByteWait k n s).cas = s.cas := rfl
@[simp] theorem armByteWait_draws (k : Nat) (n : OpStatus) : (armByteWait k n s).draws = s.draws := rfl
@[simp] theorem armByteWait_inputs (k : Nat) (n : OpStatus) : (armByteWait k n s).inputs = s.inputs := rfl
@[simp] theorem armByteWait_outputs (k : Nat) (n : OpStatus) : (armByteWait k n s).outputs = s.outputs := rfl

/-! ### terminate -/

@[simp] theorem terminate_params : (terminate s).params = s.params := rfl
@[simp] theorem terminate_tickCount : (terminate s).tickCount = s.tickCount := rfl
@[simp] theorem terminate_latches : (terminate s).latches = s.latches := rfl
@[simp] theorem terminate_drives : (terminate s).drives = s.drives := rfl
@[simp] theorem terminate_cas : (terminate s).cas = s.cas := rfl
@[simp] theorem terminate_draws : (terminate s).draws = s.draws := rfl
@[simp] theorem terminate_inputs : (terminate s).inputs = s.inputs := rfl
@[simp] theorem terminate_outputs : (terminate s).outputs = s.outputs := rfl

/-! ### doNmi -/

@[simp] theorem doNmi_params : (doNmi s).params = s.params := rfl
@[simp] theorem doNmi_tickCount : (doNmi s).tickCount = s.tickCount := rfl
@[simp] theorem doNmi_sched : (doNmi s).sched = s.sched := rfl
@[simp] theorem doNmi_drives : (doNmi s).drives = s.drives := rfl
@[simp] theorem doNmi_cas : (doNmi s).cas = s.cas := rfl
@[simp] theorem doNmi_draws : (doNmi s).draws = s.draws := rfl
@[simp] theorem doNmi_inputs : (doNmi s).inputs = s.inputs := rfl
@[simp] theorem doNmi_outputs : (doNmi s).outputs = s.outputs := rfl

/-! ### nmiState -/

@[simp] theorem nmiState_params : (nmiState s).params = s.params := rfl
@[simp] theorem nmiState_tickCount : (nmiState s).tickCount = s.tickCount := rfl
@[simp] theorem nmiState_sched : (nmiState s).sched = s.sched := rfl
@[simp] theorem nmiState_drives : (nmiState s).drives = s.drives := rfl
@[simp] theorem nmiState_cas : (nmiState s).cas = s.cas := rfl
@[simp] theorem nmiState_draws : (nmiState s).draws = s.draws := rfl
@[simp] theorem nmiState_inputs : (nmiState s).inputs = s.inputs := rfl
@[simp] theorem nmiState_outputs : (nmiState s).outputs = s.outputs := rfl

/-! ### acknowledgeNmi -/

@[simp] theorem acknowledgeNmi_params : (acknowledgeNmi s).params = s.params := rfl
@[simp] theorem acknowledgeNmi_tickCount : (acknowledgeNmi s).tickCount = s.tickCount := rfl
@[simp] theorem acknowledgeNmi_sched : (acknowledgeNmi s).sched = s.sched := rfl
@[simp] theorem acknowledgeNmi_fdc : (acknowledgeNmi s).fdc = s.fdc := rfl
@[simp] theorem acknowledgeNmi_drives : (acknowledgeNmi s).drives = s.drives := rfl
@[simp] theorem acknowledgeNmi_cas : (acknowledgeNmi s).cas = s.cas := rfl
@[simp] theorem acknowledgeNmi_draws : (acknowledgeNmi s).draws = s.draws := rfl
@[simp] theorem acknowledgeNmi_inputs : (acknowledgeNmi s).inputs = s.inputs := rfl
@[simp] theorem acknowledgeNmi_outputs : (acknowledgeNmi s).outputs = s.outputs := rfl

/-! ### resetIndexCount -/

@[simp] theorem resetIndexCount_params : (resetIndexCount s).params = s.params := rfl
@[simp] theorem resetIndexCount_tickCount : (resetIndexCount s).tickCount = s.tickCount := rfl
@[simp] theorem resetIndexCount_sched : (resetIndexCount s).sched = s.sched := rfl
@[simp] theorem resetIndexCount_latches : (resetIndexCount s).latches = s.latches := rfl
@[simp] theorem resetIndexCount_drives : (resetIndexCount s).drives = s.drives := rfl
@[simp] theorem resetIndexCount_cas : (resetIndexCount s).cas = s.cas := rfl
@[simp] theorem resetIndexCount_draws : (resetIndexCount s).draws = s.draws := rfl
@[simp] theorem resetIndexCount_inputs : (resetIndexCount s).inputs = s.inputs := rfl
@[simp] theorem resetIndexCount_outputs : (resetIndexCount s).outputs = s.outputs := rfl

/-! ### startFlags -/

@[simp] theorem startFlags_params : (startFlags s).params = s.params := rfl
@[simp] theorem startFlags_tickCount : (startFlags s).tickCount = s.tickCount := rfl
@[simp] theorem startFlags_sched : (startFlags s).sched = s.sched := rfl
@[simp] theorem startFlags_latches : (startFlags s).latches = s.latches := rfl
@[simp] theorem startFlags_drives : (startFlags s).drives = s.drives := rfl
@[simp] theorem startFlags_cas : (startFlags s).cas = s.cas := rfl
@[simp] theorem startFlags_draws : (startFlags s).draws = s.draws := rfl
@[simp] theorem startFlags_inputs : (startFlags s).inputs = s.inputs := rfl
@[simp] theorem startFlags_outputs : (startFlags s).outputs = s.outputs := rfl

/-! ### startCrc -/

@[simp] theorem startCrc_params (b : Byte) : (startCrc b s).params = s.params := rfl
@[simp] theorem startCrc_tickCount (b : Byte) : (startCrc b s).tickCount = s.tickCount := rfl
@[simp] theorem startCrc_sched (b : Byte) : (startCrc b s).sched = s.sched := rfl
@[simp] theorem startCrc_latches (b : Byte) : (startCrc b s).latches = s.latches := rfl
@[simp] theorem startCrc_drives (b : Byte) : (startCrc b s).drives = s.drives := rfl
@[simp] theorem startCrc_cas (b : Byte) : (startCrc b s).cas = s.cas := rfl
@[simp] theorem startCrc_draws (b : Byte) : (startCrc b s).draws = s.draws := rfl
@[simp] theorem startCrc_inputs (b : Byte) : (startCrc b s).inputs = s.inputs := rfl
@[simp] theorem startCrc_outputs (b : Byte) : (startCrc b s).outputs = s.outputs := rfl

/-! ### offerByte -/

@[simp] theorem offerByte_params (b : Byte) : (offerByte b s).params = s.params := rfl
@[simp] theorem offerByte_tickCount (b : Byte) : (offerByte b s).tickCount = s.tickCount := rfl
@[simp] theorem offerByte_sched (b : Byte) : (offerByte b s).sched = s.sched := rfl
@[simp] theorem offerByte_latches (b : Byte) : (offerByte b s).latches = s.latches := rfl
@[simp] theorem offerByte_drives (b : Byte) : (offerByte b s).drives = s.drives := rfl
@[simp] theorem offerByte_cas (b : Byte) : (offerByte b s).cas = s.cas := rfl
@[simp] theorem offerByte_draws (b : Byte) : (offerByte b s).draws = s.draws := rfl
@[simp] theorem offerByte_inputs (b : Byte) : (offerByte b s).inputs = s.inputs := rfl
@[simp] theorem offerByte_outputs (b : Byte) : (offerByte b s).outputs = s.outputs := rfl

/-! ### noteTaken -/

@[simp] theorem noteTaken_params : (noteTaken s).params = s.params := rfl
@[simp] theorem noteTaken_tickCount : (noteTaken s).tickCount = s.tickCount := rfl
@[simp] theorem noteTaken_sched : (noteTaken s).sched = s.sched := rfl
@[simp] theorem noteTaken_latches : (noteTaken s).latches = s.latches := rfl
@[simp] theorem noteTaken_drives : (noteTaken s).drives = s.drives := rfl
@[simp] theorem noteTaken_cas : (noteTaken s).cas = s.cas := rfl
@[simp] theorem noteTaken_draws : (noteTaken s).draws = s.draws := rfl
@[simp] theorem noteTaken_inputs : (noteTaken s).inputs = s.inputs := rfl
@[simp] theorem noteTaken_outputs : (noteTaken s).outputs = s.outputs := rfl

/-! ### storeHeaderByte -/

@[simp] theorem storeHeaderByte_params (b : Byte) : (storeHeaderByte b s).params = s.params := rfl
@[simp] theorem storeHeaderByte_tickCount (b : Byte) : (storeHeaderByte b s).tickCount = s.tickCount := rfl
@[simp] theorem storeHeaderByte_sched (b : Byte) : (storeHeaderByte b s).sched = s.sched := rfl
@[simp] theorem storeHeaderByte_latches (b : Byte) : (storeHeaderByte b s).latches = s.latches := rfl
@[simp] theorem storeHeaderByte_drives (b : Byte) : (storeHeaderByte b s).drives = s.drives := rfl
@[simp] theorem storeHeaderByte_cas (b : Byte) : (storeHeaderByte b s).cas = s.cas := rfl
@[simp] theorem storeHeaderByte_draws (b : Byte) : (storeHeaderByte b s).draws = s.draws := rfl
@[simp] theorem storeHeaderByte_inputs (b : Byte) : (storeHeaderByte b s).inputs = s.inputs := rfl
@[simp] theorem storeHeaderByte_outputs (b : Byte) : (storeHeaderByte b s).outputs = s.outputs := rfl

/-! ### captureHeaderCrc -/

@[simp] theorem captureHeaderCrc_params : (captureHeaderCrc s).params = s.params := rfl
@[simp] theorem captureHeaderCrc_tickCount : (captureHeaderCrc s).tickCount = s.tickCount := rfl
@[simp] theorem captureHeaderCrc_sched : (captureHeaderCrc s).sched = s.sched := rfl
@[simp] theorem captureHeaderCrc_latches : (captureHeaderCrc s).latches = s.latches := rfl
@[simp] theorem captureHeaderCrc_drives : (captureHeaderCrc s).drives = s.drives := rfl
@[simp] theorem captureHeaderCrc_cas : (captureHeaderCrc s).cas = s.cas := rfl
@[simp] theorem captureHeaderCrc_draws : (captureHeaderCrc s).draws = s.draws := rfl
@[simp] theorem captureHeaderCrc_inputs : (captureHeaderCrc s).inputs = s.inputs := rfl
@[simp] theorem captureHeaderCrc_outputs : (captureHeaderCrc s).outputs = s.outputs := rfl

/-! ### deliverByte -/

@[simp] theorem deliverByte_params (b : Byte) : (deliverByte b s).params = s.params := rfl
@[simp] theorem deliverByte_tickCount (b : Byte) : (deliverByte b s).tickCount = s.tickCount := rfl
@[simp] theorem deliverByte_sched (b : Byte) : (deliverByte b s).sched = s.sched := rfl
@[simp] theorem deliverByte_latches (b : Byte) : (deliverByte b s).latches = s.latches := rfl
@[simp] theorem deliverByte_drives (b : Byte) : (deliverByte b s).drives = s.drives := rfl
@[simp] theorem deliverByte_cas (b : Byte) : (deliverByte b s).cas = s.cas := rfl
@[simp] theorem deliverByte_draws (b : Byte) : (deliverByte b s).draws = s.draws := rfl
@[simp] theorem deliverByte_inputs (b : Byte) : (deliverByte b s).inputs = s.inputs := rfl
@[simp] theorem deliverByte_outputs (b : Byte) : (deliverByte b s).outputs = s.outputs := rfl

/-! ### splitCrc -/

@[simp] theorem splitCrc_params : (splitCrc s).params = s.params := rfl
@[simp] theorem splitCrc_tickCount : (splitCrc s).tickCount = s.tickCount := rfl
@[simp] theorem splitCrc_sched : (splitCrc s).sched = s.sched := rfl
@[simp] theorem splitCrc_latches : (splitCrc s).latches = s.latches := rfl
@[simp] theorem splitCrc_drives : (splitCrc s).drives = s.drives := rfl
@[simp] theorem splitCrc_cas : (splitCrc s).cas = s.cas := rfl
@[simp] theorem splitCrc_draws : (splitCrc s).draws = s.draws := rfl
@[simp] theorem splitCrc_inputs : (splitCrc s).inputs = s.inputs := rfl
@[simp] theorem splitCrc_outputs : (splitCrc s).outputs = s.outputs := rfl

/-! ### typeIDecode -/

@[simp] theorem typeIDecode_params : (typeIDecode s).params = s.params := rfl
@[simp] theorem typeIDecode_tickCount : (typeIDecode s).tickCount = s.tickCount := rfl
@[simp] theorem typeIDecode_sched : (typeIDecode s).sched = s.sched := rfl
@[simp] theorem typeIDecode_latches : (typeIDecode s).latches = s.latches := rfl
@[simp] theorem typeIDecode_drives : (typeIDecode s).drives = s.drives := rfl
@[simp] theorem typeIDecode_cas : (typeIDecode s).cas = s.cas := rfl
@[simp] theorem typeIDecode_draws : (typeIDecode s).draws = s.draws := rfl
@[simp] theorem typeIDecode_inputs : (typeIDecode s).inputs = s.inputs := rfl
@[simp] theorem typeIDecode_outputs : (typeIDecode s).outputs = s.outputs := rfl

/-! ### typeIIDecode -/

@[simp] theorem typeIIDecode_params : (typeIIDecode s).params = s.params := rfl
@[simp] theorem typeIIDecode_tickCount : (typeIIDecode s).tickCount = s.tickCount := rfl
@[simp] theorem typeIIDecode_sched : (typeIIDecode s).sched = s.sched := rfl
@[simp] theorem typeIIDecode_latches : (typeIIDecode s).latches = s.latches := rfl
@[simp] theorem typeIIDecode_drives : (typeIIDecode s).drives = s.drives := rfl
@[simp] theorem typeIIDecode_cas : (typeIIDecode s).cas = s.cas := rfl
@[simp] theorem typeIIDecode_draws : (typeIIDecode s).draws = s.draws := rfl
@[simp] theorem typeIIDecode_inputs : (typeIIDecode s).inputs = s.inputs := rfl
@[simp] theorem typeIIDecode_outputs : (typeIIDecode s).outputs = s.outputs := rfl

/-! ### typeIIIDecode -/

@[simp] theorem typeIIIDecode_params : (typeIIIDecode s).params = s.params := rfl
@[simp] theorem typeIIIDecode_tickCount : (typeIIIDecode s).tickCount = s.tickCount := rfl
@[simp] theorem typeIIIDecode_sched : (typeIIIDecode s).sched = s.sched := rfl
@[simp] theorem typeIIIDecode_latches : (typeIIIDecode s).latches = s.latches := rfl
@[simp] theorem typeIIIDecode_drives : (typeIIIDecode s).drives = s.drives := rfl
@[simp] theorem typeIIIDecode_cas : (typeIIIDecode s).cas = s.cas := rfl
@[simp] theorem typeIIIDecode_draws : (typeIIIDecode s).draws = s.draws := rfl
@[simp] theorem typeIIIDecode_inputs : (typeIIIDecode s).inputs = s.inputs := rfl
@[simp] theorem typeIIIDecode_outputs : (typeIIIDecode s).outputs = s.outputs := rfl

/-! ### acceptCommand -/

@[simp] theorem acceptCommand_params (v : Byte) (c : Command) : (acceptCommand v c s).params = s.params := rfl
@[simp] theorem acceptCommand_tickCount (v : Byte) (c : Command) : (acceptCommand v c s).tickCount = s.tickCount := rfl
@[simp] theorem acceptCommand_sched (v : Byte) (c : Command) : (acceptCommand v c s).sched = s.sched := rfl
@[simp] theorem acceptCommand_drives (v : Byte) (c : Command) : (acceptCommand v c s).drives = s.drives := rfl
@[simp] theorem acceptCommand_cas (v : Byte) (c : Command) : (acceptCommand v c s).cas = s.cas := rfl
@[simp] theorem acceptCommand_draws (v : Byte) (c : Command) : (acceptCommand v c s).draws = s.draws := rfl
@[simp] theorem acceptCommand_inputs (v : Byte) (c : Command) : (acceptCommand v c s).inputs = s.inputs := rfl
@[simp] theorem acceptCommand_outputs (v : Byte) (c : Command) : (acceptCommand v c s).outputs = s.outputs := rfl

/-! ### abortCommand -/

@[simp] theorem abortCommand_params (v : Byte) (c : Command) : (abortCommand v c s).params = s.params := rfl
@[simp] theorem abortCommand_tickCount (v : Byte) (c : Command) : (abortCommand v c s).tickCount = s.tickCount := rfl
@[simp] theorem abortCommand_latches (v : Byte) (c : Command) : (abortCommand v c s).latches = s.latches := rfl
@[simp] theorem abortCommand_drives (v : Byte) (c : Command) : (abortCommand v c s).drives = s.drives := rfl
@[simp] theorem abortCommand_cas (v : Byte) (c : Command) : (abortCommand v c s).cas = s.cas := rfl
@[simp] theorem abortCommand_draws (v : Byte) (c : Command) : (abortCommand v c s).draws = s.draws := rfl
@[simp] theorem abortCommand_inputs (v : Byte) (c : Command) : (abortCommand v c s).inputs = s.inputs := rfl
@[simp] theorem abortCommand_outputs (v : Byte) (c : Command) : (abortCommand v c s).outputs = s.outputs := rfl

/-! ### noteEdge -/

@[simp] theorem noteEdge_params : (noteEdge s).params = s.params := rfl
@[simp] theorem noteEdge_tickCount : (noteEdge s).tickCount = s.tickCount := rfl
@[simp] theorem noteEdge_sched : (noteEdge s).sched = s.sched := rfl
@[simp] theorem noteEdge_latches : (noteEdge s).latches = s.latches := rfl
@[simp] theorem noteEdge_fdc : (noteEdge s).fdc = s.fdc := rfl
@[simp] theorem noteEdge_drives : (noteEdge s).drives = s.drives := rfl
@[simp] theorem noteEdge_draws : (noteEdge s).draws = s.draws := rfl
@[simp] theorem noteEdge_inputs : (noteEdge s).inputs = s.inputs := rfl
@[simp] theorem noteEdge_outputs : (noteEdge s).outputs = s.outputs := rfl

/-! ### dropFlipFlop -/

@[simp] theorem dropFlipFlop_params : (dropFlipFlop s).params = s.params := rfl
@[simp] theorem dropFlipFlop_tickCount : (dropFlipFlop s).tickCount = s.tickCount := rfl
@[simp] theorem dropFlipFlop_sched : (dropFlipFlop s).sched = s.sched := rfl
@[simp] theorem dropFlipFlop_latches : (dropFlipFlop s).latches = s.latches := rfl
@[simp] theorem dropFlipFlop_fdc : (dropFlipFlop s).fdc = s.fdc := rfl
@[simp] theorem dropFlipFlop_drives : (dropFlipFlop s).drives = s.drives := rfl
@[simp] theorem dropFlipFlop_draws : (dropFlipFlop s).draws = s.draws := rfl
@[simp] theorem dropFlipFlop_inputs : (dropFlipFlop s).inputs = s.inputs := rfl
@[simp] theorem dropFlipFlop_outputs : (dropFlipFlop s).outputs = s.outputs := rfl

/-! ### afterCassetteRead -/

@[simp] theorem afterCassetteRead_params : (afterCassetteRead s).params = s.params := rfl
@[simp] theorem afterCassetteRead_tickCount : (afterCassetteRead s).tickCount = s.tickCount := rfl
@[simp] theorem afterCassetteRead_sched : (afterCassetteRead s).sched = s.sched := rfl
@[simp] theorem afterCassetteRead_latches : (afterCassetteRead s).latches = s.latches := rfl
@[simp] theorem afterCassetteRead_fdc : (afterCassetteRead s).fdc = s.fdc := rfl
@[simp] theorem afterCassetteRead_drives : (afterCassetteRead s).drives = s.drives := rfl
@[simp] theorem afterCassetteRead_draws : (afterCassetteRead s).draws = s.draws := rfl
@[simp] theorem afterCassetteRead_inputs : (afterCassetteRead s).inputs = s.inputs := rfl
@[simp] theorem afterCassetteRead_outputs : (afterCassetteRead s).outputs = s.outputs := rfl

/-! ### motorTurnsOff -/

@[simp] theorem motorTurnsOff_params : (motorTurnsOff s).params = s.params := rfl
@[simp] theorem motorTurnsOff_tickCount : (motorTurnsOff s).tickCount = s.tickCount := rfl
@[simp] theorem motorTurnsOff_latches : (motorTurnsOff s).latches = s.latches := rfl
@[simp] theorem motorTurnsOff_fdc : (motorTurnsOff s).fdc = s.fdc := rfl
@[simp] theorem motorTurnsOff_drives : (motorTurnsOff s).drives = s.drives := rfl
@[simp] theorem motorTurnsOff_draws : (motorTurnsOff s).draws = s.draws := rfl
@[simp] theorem motorTurnsOff_inputs : (motorTurnsOff s).inputs = s.inputs := rfl
@[simp] theorem motorTurnsOff_outputs : (motorTurnsOff s).outputs = s.outputs := rfl

/-! ### enterPhase -/

@[simp] theorem enterPhase_params (ph : Phase) (t : Transition) : (enterPhase ph t s).params = s.params := rfl
@[simp] theorem enterPhase_tickCount (ph : Phase) (t : Transition) : (enterPhase ph t s).tickCount = s.tickCount := rfl
@[simp] theorem enterPhase_sched (ph : Phase) (t : Transition) : (enterPhase ph t s).sched = s.sched := rfl
@[simp] theorem enterPhase_fdc (ph : Phase) (t : Transition) : (enterPhase ph t s).fdc = s.fdc := rfl
@[simp] theorem enterPhase_drives (ph : Phase) (t : Transition) : (enterPhase ph t s).drives = s.drives := rfl
@[simp] theorem enterPhase_draws (ph : Phase) (t : Transition) : (enterPhase ph t s).draws = s.draws := rfl
@[simp] theorem enterPhase_inputs (ph : Phase) (t : Transition) : (enterPhase ph t s).inputs = s.inputs := rfl
@[simp] theorem enterPhase_outputs (ph : Phase) (t : Transition) : (enterPhase ph t s).outputs = s.outputs := rfl

/-! ### motorOnCallback -/

@[simp] theorem motorOnCallback_params : (motorOnCallback s).params = s.params := rfl
@[simp] theorem motorOnCallback_tickCount : (motorOnCallback s).tickCount = s.tickCount := rfl
@[simp] theorem motorOnCallback_latches : (motorOnCallback s).latches = s.latches := rfl
@[simp] theorem motorOnCallback_drives : (motorOnCallback s).drives = s.drives := rfl
@[simp] theorem motorOnCallback_cas : (motorOnCallback s).cas = s.cas := rfl
@[simp] theorem motorOnCallback_draws : (motorOnCallback s).draws = s.draws := rfl
@[simp] theorem motorOnCallback_inputs : (motorOnCallback s).inputs = s.inputs := rfl

/-! ### motorOffCallback -/

@[simp] theorem motorOffCallback_params : (motorOffCallback s).params = s.params := rfl
@[simp] theorem motorOffCallback_tickCount : (motorOffCallback s).tickCount = s.tickCount := rfl
@[simp] theorem motorOffCallback_sched : (motorOffCallback s).sched = s.sched := rfl
@[simp] theorem motorOffCallback_drives : (motorOffCallback s).drives = s.drives := rfl
@[simp] theorem motorOffCallback_cas : (motorOffCallback s).cas = s.cas := rfl
@[simp] theorem motorOffCallback_draws : (motorOffCallback s).draws = s.draws := rfl
@[simp] theorem motorOffCallback_inputs : (motorOffCallback s).inputs = s.inputs := rfl

/-! ### beginStep -/

@[simp] theorem beginStep_params (rest : List Input) : (beginStep rest s).params = s.params := rfl
@[simp] theorem beginStep_tickCount (rest : List Input) : (beginStep rest s).tickCount = s.tickCount := rfl
@[simp] theorem beginStep_sched (rest : List Input) : (beginStep rest s).sched = s.sched := rfl
@[simp] theorem beginStep_latches (rest : List Input) : (beginStep rest s).latches = s.latches := rfl
@[simp] theorem beginStep_fdc (rest : List Input) : (beginStep rest s).fdc = s.fdc := rfl
@[simp] theorem beginStep_drives (rest : List Input) : (beginStep rest s).drives = s.drives := rfl
@[simp] theorem beginStep_cas (rest : List Input) : (beginStep rest s).cas = s.cas := rfl
@[simp] theorem beginStep_draws (rest : List Input) : (beginStep rest s).draws = s.draws := rfl

/-! ### The fields an update writes -/

@[simp] theorem latch_latches (l : Latch) : (latch l s).latches = s.latches.set l true := rfl
@[simp] theorem unlatch_latches (l : Latch) : (unlatch l s).latches = s.latches.set l false := rfl
@[simp] theorem emit_outputs (e : Output) : (emit e s).outputs = s.outputs ++ [e] := rfl
@[simp] theorem waitTime_fdc (us : Nat) (n : OpStatus) :
    (waitTime us n s).fdc = { s.fdc with isPolling := false, nextCallback := none, opStatus := n } := rfl
@[simp] theorem waitTime_sched (us : Nat) (n : OpStatus) :
    (waitTime us n s).sched =
      { s.sched with
        nextSeq := s.sched.nextSeq + 1
        command :=
          { active := true, trigger := s.tickCount + usToTicks s.params us, seq := s.sched.nextSeq
            basis := .microseconds, delay := us, callback := .fdcAdvance } } := rfl
@[simp] theorem armByteWait_fdc (k : Nat) (n : OpStatus) :
    (armByteWait k n s).fdc =
      { s.fdc with
        isPolling := true, nextCallback := some .fdcAdvance, opStatus := n, targetDataIndex := byteWaitTarget k s } := rfl
@[simp] theorem armByteWait_sched (k : Nat) (n : OpStatus) :
    (armByteWait k n s).sched =
      { s.sched with
        nextSeq := s.sched.nextSeq + 1
        command :=
          { active := true, trigger := s.tickCount + byteWaitDelay (byteWaitTarget k s) s, seq := s.sched.nextSeq
            basis := .ticks, delay := byteWaitDelay (byteWaitTarget k s) s, callback := .poll } } := rfl
@[simp] theorem doNmi_fdc : (doNmi s).fdc = { s.fdc with busy := false, drq := false } := rfl
@[simp] theorem doNmi_latches : (doNmi s).latches = { s.latches with fdcNmi := true } := rfl
@[simp] theorem nmiState_fdc : (nmiState s).fdc = { s.fdc with busy := false, drq := false, opStatus := .opDone } := rfl
@[simp] theorem nmiState_latches : (nmiState s).latches = { s.latches with fdcNmi := true } := rfl
@[simp] theorem acknowledgeNmi_latches : (acknowledgeNmi s).latches = { s.latches with fdcNmi := false } := rfl
@[simp] theorem resetIndexCount_fdc :
    (resetIndexCount s).fdc =
      { s.fdc with
        indexCheckStartTick := s.tickCount - s.tickCount % ticksPerRev s.params + Config.indexStartOffset } := rfl
@[simp] theorem acceptCommand_latches (v : Byte) (c : Command) :
    (acceptCommand v c s).latches = { s.latches with fdcNmi := false } := rfl
@[simp] theorem acceptCommand_fdc (v : Byte) (c : Command) :
    (acceptCommand v c s).fdc =
      { s.fdc with
        commandRegister := v, command := c, opStatus := .prepare, busy := true, drq := false, lostData := false
        seekError := false, crcError := false, sectorDeleted := false, writeProtected := false } := rfl
@[simp] theorem abortCommand_fdc (v : Byte) (c : Command) :
    (abortCommand v c s).fdc =
      { s.fdc with
        commandRegister := v, command := c, isPolling := false, nextCallback := none, opStatus := .opDone } := rfl
@[simp] theorem beginStep_inputs (rest : List Input) : (beginStep rest s).inputs = rest := rfl
@[simp] theorem beginStep_outputs (rest : List Input) : (beginStep rest s).outputs = [] := rfl

end

/-! ### Requests and drives by name -/

section

variable (c : Scheduler) (r : PulseReq) (d : Drives) (v : DriveState)

@[simp] theorem Scheduler.get_set_same (q : RequestId) : (c.set q r).get q = r := by cases q <;> rfl

theorem Scheduler.get_set_other {q p : RequestId} (h : p ≠ q) : (c.set q r).get p = c.get p := by
  cases q <;> cases p <;> first | rfl | exact absurd rfl h

theorem Scheduler.get_set (q p : RequestId) : (c.set q r).get p = if p = q then r else c.get p := by
  cases q <;> cases p <;> rfl

@[simp] theorem Scheduler.set_nextSeq (q : RequestId) : (c.set q r).nextSeq = c.nextSeq := by cases q <;> rfl

@[simp] theorem Drives.get_set_same (k : DriveId) : (d.set k v).get k = v := by cases k <;> rfl

theorem Drives.get_set_other {k j : DriveId} (h : j ≠ k) : (d.set k v).get j = d.get j := by
  cases k <;> cases j <;> first | rfl | exact absurd rfl h

theorem Drives.get_set (k j : DriveId) : (d.set k v).get j = if j = k then v else d.get j := by
  cases k <;> cases j <;> rfl

@[simp] theorem Drives.set_get (k : DriveId) : d.set k (d.get k) = d := by cases k <;> rfl

theorem Latches.get_set (l : Latches) (which other : Latch) (b : Bool) :
    (l.set which b).get other = if other = which then b else l.get other := by
  cases which <;> cases other <;> rfl

/-- A request registered is active, aims at its delay from now, and the other requests are as before. -/
theorem register_get (s : State) (q p : RequestId) (b : Basis) (n : Nat) (cb : Callback) :
    (register q b n cb s).sched.get p =
      if p = q then
        { active := true, trigger := s.tickCount + delayTicks s.params b n, seq := s.sched.nextSeq, basis := b, delay := n
          callback := cb }
      else s.sched.get p := by
  cases q <;> cases p <;> rfl

@[simp] theorem register_nextSeq (s : State) (q : RequestId) (b : Basis) (n : Nat) (cb : Callback) :
    (register q b n cb s).sched.nextSeq = s.sched.nextSeq + 1 := by
  cases q <;> rfl

/-- A request expired is inactive, and the other requests are as before. -/
theorem expire_get (s : State) (q p : RequestId) :
    (expire q s).sched.get p = if p = q then { s.sched.get q with active := false } else s.sched.get p := by
  cases q <;> cases p <;> rfl

@[simp] theorem expire_nextSeq (s : State) (q : RequestId) : (expire q s).sched.nextSeq = s.sched.nextSeq := by
  cases q <;> rfl

end

end Sys2Proof.Machine
end

