-- ==== Sys2Proof/Laws/Memory.lean ====
section
/-! SUPPORT. The byte arrays: every operation keeps the canonical form, a byte written reads back and every other byte
stays, and two arrays in canonical form that read the same are the same data. -/

namespace Sys2Proof.Machine

/-! ## Cells -/

theorem cellsWf_cons {n lo a : Nat} {v : Byte} {rest : List Host.Cell} :
    cellsWf n lo ((a, v) :: rest) = true ↔ lo ≤ a ∧ a < n ∧ v ≠ unlistedByte ∧ cellsWf n (a + 1) rest = true := by
  simp [cellsWf, and_assoc]

theorem cellsWf_lower {n lo lo' : Nat} {cells : List Host.Cell} (h : cellsWf n lo cells = true) (hl : lo' ≤ lo) :
    cellsWf n lo' cells = true := by
  cases cells with
  | nil => rfl
  | cons c rest =>
    obtain ⟨a, v⟩ := c
    rw [cellsWf_cons] at h ⊢
    exact ⟨by omega, h.2⟩

theorem cellsWf_grow {n n' : Nat} {cells : List Host.Cell} (hn : n ≤ n') :
    ∀ {lo : Nat}, cellsWf n lo cells = true → cellsWf n' lo cells = true := by
  induction cells with
  | nil => intro _ _; rfl
  | cons c rest ih =>
    obtain ⟨a, v⟩ := c
    intro lo h
    rw [cellsWf_cons] at h ⊢
    exact ⟨h.1, by omega, h.2.2.1, ih h.2.2.2⟩

theorem cellRead_below {n lo i : Nat} {cells : List Host.Cell} (h : cellsWf n lo cells = true) (hi : i < lo) :
    cellRead cells i = unlistedByte := by
  induction cells generalizing lo with
  | nil => rfl
  | cons c rest ih =>
    obtain ⟨a, v⟩ := c
    rw [cellsWf_cons] at h
    rw [cellRead, if_neg (by omega)]
    exact ih h.2.2.2 (by omega)

/-- A write keeps the canonical form. -/
theorem cellWrite_wf {n i : Nat} {v : Byte} {cells : List Host.Cell} (hi : i < n) :
    ∀ {lo : Nat}, cellsWf n lo cells = true → lo ≤ i → cellsWf n lo (cellWrite cells i v) = true := by
  induction cells with
  | nil =>
    intro lo _ hl
    simp only [cellWrite]
    split
    · rfl
    · rw [cellsWf_cons]; exact ⟨hl, hi, ‹_›, rfl⟩
  | cons c rest ih =>
    obtain ⟨a, w⟩ := c
    intro lo h hl
    have h' := cellsWf_cons.mp h
    simp only [cellWrite]
    split
    · split
      · exact h
      · rw [cellsWf_cons, cellsWf_cons]; exact ⟨hl, hi, ‹_›, by omega, h'.2⟩
    · split
      · subst_vars
        split
        · exact cellsWf_lower h'.2.2.2 (by omega)
        · rw [cellsWf_cons]; exact ⟨hl, hi, ‹_›, h'.2.2.2⟩
      · rw [cellsWf_cons]; exact ⟨h'.1, h'.2.1, h'.2.2.1, ih h'.2.2.2 (by omega)⟩

/-- A byte written reads back, and every other byte reads as before. -/
theorem cellRead_write {n i j : Nat} {v : Byte} {cells : List Host.Cell} :
    ∀ {lo : Nat}, cellsWf n lo cells = true →
      cellRead (cellWrite cells i v) j = if j = i then v else cellRead cells j := by
  induction cells with
  | nil =>
    intro lo _
    by_cases hv : v = unlistedByte <;> by_cases hj : j = i <;> simp [cellWrite, cellRead, hv, hj]
  | cons c rest ih =>
    obtain ⟨a, w⟩ := c
    intro lo h
    have h' := cellsWf_cons.mp h
    by_cases hia : i < a
    · by_cases hv : v = unlistedByte
      · have hb : cellRead ((a, w) :: rest) i = unlistedByte := cellRead_below (lo := a)
          (cellsWf_cons.mpr ⟨le_refl a, h'.2⟩) hia
        by_cases hj : j = i
        · subst hj; simp only [cellWrite, hia, hv, if_true]; exact hb
        · simp [cellWrite, hia, hv, hj]
      · by_cases hj : j = i <;> simp [cellWrite, cellRead, hia, hv, hj]
    · by_cases hie : i = a
      · subst hie
        by_cases hv : v = unlistedByte
        · by_cases hj : j = i
          · subst hj
            simp only [cellWrite, hv, if_true, lt_irrefl, if_false]
            exact cellRead_below h'.2.2.2 (by omega)
          · simp [cellWrite, cellRead, hv, hj]
        · by_cases hj : j = i <;> simp [cellWrite, cellRead, hv, hj]
      · have := ih h'.2.2.2
        by_cases hj : j = a
        · have hji : j ≠ i := by omega
          simp [cellWrite, cellRead, hia, hie, hj, show a ≠ i by omega]
        · simp only [cellWrite, hia, hie, if_false, cellRead, hj]; exact this

/-- Equal reads, equal cells: the form is canonical. -/
theorem cells_eq_of_reads {n : Nat} {xs : List Host.Cell} :
    ∀ {ys : List Host.Cell} {lo : Nat}, cellsWf n lo xs = true → cellsWf n lo ys = true →
      (∀ i, cellRead xs i = cellRead ys i) → xs = ys := by
  induction xs with
  | nil =>
    intro ys lo _ hy h
    cases ys with
    | nil => rfl
    | cons c rest =>
      obtain ⟨a, v⟩ := c
      have := h a
      simp [cellRead] at this
      exact absurd this.symm (cellsWf_cons.mp hy).2.2.1
  | cons c rest ih =>
    obtain ⟨a, v⟩ := c
    intro ys lo hx hy h
    have hx' := cellsWf_cons.mp hx
    cases ys with
    | nil =>
      have := h a
      simp [cellRead] at this
      exact absurd this hx'.2.2.1
    | cons d rest' =>
      obtain ⟨b, w⟩ := d
      have hy' := cellsWf_cons.mp hy
      have hab : a = b := by
        rcases Nat.lt_trichotomy a b with hlt | heq | hgt
        · have h1 := h a
          have h2 : cellRead ((b, w) :: rest') a = unlistedByte :=
            cellRead_below (cellsWf_cons.mpr ⟨le_refl b, hy'.2⟩) hlt
          rw [h2] at h1
          simp [cellRead] at h1
          exact absurd h1 hx'.2.2.1
        · exact heq
        · have h1 := h b
          have h2 : cellRead ((a, v) :: rest) b = unlistedByte :=
            cellRead_below (cellsWf_cons.mpr ⟨le_refl a, hx'.2⟩) hgt
          rw [h2] at h1
          simp [cellRead] at h1
          exact absurd h1.symm hy'.2.2.1
      subst hab
      have hvw : v = w := by simpa [cellRead] using h a
      subst hvw
      have : rest = rest' := by
        refine ih hx'.2.2.2 hy'.2.2.2 fun i => ?_
        by_cases hi : i = a
        · subst hi
          rw [cellRead_below hx'.2.2.2 (by omega), cellRead_below hy'.2.2.2 (by omega)]
        · simpa [cellRead, hi] using h i
      rw [this]

theorem cellsFrom_wf (bytes : List Byte) : ∀ k, cellsWf (k + bytes.length) k (cellsFrom k bytes) = true := by
  induction bytes with
  | nil => intro k; rfl
  | cons v rest ih =>
    intro k
    have := ih (k + 1)
    rw [show k + 1 + rest.length = k + (v :: rest).length by simp; omega] at this
    simp only [cellsFrom]
    split
    · exact cellsWf_lower this (by omega)
    · rw [cellsWf_cons]; exact ⟨le_refl k, by simp, ‹_›, this⟩

/-- The cells of a list of bytes read as those bytes. -/
theorem cellRead_cellsFrom (bytes : List Byte) :
    ∀ k i, cellRead (cellsFrom k bytes) (k + i) = bytes.getD i unlistedByte := by
  induction bytes with
  | nil => intro k i; simp [cellsFrom, cellRead]
  | cons v rest ih =>
    intro k i
    have hwf := cellsFrom_wf rest (k + 1)
    cases i with
    | zero =>
      simp only [cellsFrom]
      split
      · have hz : cellRead (cellsFrom (k + 1) rest) (k + 0) = unlistedByte := cellRead_below hwf (Nat.lt_succ_self k)
        rw [hz]; simp [‹v = _›]
      · simp [cellRead]
    | succ i =>
      have := ih (k + 1) i
      rw [show k + 1 + i = k + (i + 1) by omega] at this
      simp only [cellsFrom]
      split
      · simpa using this
      · rw [cellRead, if_neg (by omega)]; simpa using this

/-! ## Memory -/

@[simp] theorem Memory.write_size (m : Memory) (i : Nat) (v : Byte) : (m.write i v).size = m.size := by
  unfold Memory.write; split <;> rfl

/-- `Memory.write` keeps the canonical form. -/
theorem Memory.write_wf {m : Memory} (i : Nat) (v : Byte) (h : m.wf = true) : (m.write i v).wf = true := by
  unfold Memory.write
  split
  · exact cellWrite_wf ‹_› h (Nat.zero_le _)
  · exact h

/-- `Memory.grow` keeps the canonical form. -/
theorem Memory.grow_wf {m : Memory} {n : Nat} (hn : m.size ≤ n) (h : m.wf = true) : (m.grow n).wf = true :=
  cellsWf_grow hn h

/-- `Memory.ofBytes` is in canonical form. -/
theorem Memory.ofBytes_wf (bytes : List Byte) : (Memory.ofBytes bytes).wf = true := by
  have := cellsFrom_wf bytes 0
  simpa [Memory.wf, Memory.ofBytes] using this

/-- The byte written reads back; every other byte reads as before. -/
theorem Memory.byteAt_write {m : Memory} {i : Nat} (v : Byte) (j : Nat) (h : m.wf = true) (hi : i < m.size) :
    (m.write i v).byteAt j = if j = i then v else m.byteAt j := by
  simp only [Memory.write, hi, if_true, Memory.byteAt]
  exact cellRead_write h

/-- The same through the read that says which addresses exist. -/
theorem Memory.read?_write {m : Memory} {i : Nat} (v : Byte) (j : Nat) (h : m.wf = true) (hi : i < m.size) :
    (m.write i v).read? j = if j = i then some v else m.read? j := by
  have hb := Memory.byteAt_write v j h hi
  simp only [Memory.byteAt] at hb
  simp only [Memory.read?, Memory.write_size]
  by_cases hj : j = i
  · subst hj; simp only [hi, if_true]; rw [hb]; simp
  · simp only [hj, if_false] at hb ⊢; rw [hb]

/-- A byte outside the array written stays as it was, whatever the array. -/
theorem Memory.write_outside {m : Memory} {i : Nat} (v : Byte) (hi : m.size ≤ i) : m.write i v = m := by
  simp [Memory.write, Nat.not_lt.mpr hi]

/-- A grown array reads as before, and 0x00 beyond. -/
theorem Memory.byteAt_grow (m : Memory) (n i : Nat) : (m.grow n).byteAt i = m.byteAt i := rfl

/-- The array of a list of bytes reads as the list. -/
theorem Memory.byteAt_ofBytes (bytes : List Byte) (i : Nat) :
    (Memory.ofBytes bytes).byteAt i = bytes.getD i unlistedByte := by
  have := cellRead_cellsFrom bytes 0 i
  simpa [Memory.ofBytes, Memory.byteAt] using this

/-- Two arrays in canonical form that read the same are the same data. -/
theorem Memory.eq_of_reads {m n : Memory} (hm : m.wf = true) (hn : n.wf = true) (hs : m.size = n.size)
    (h : ∀ i, m.byteAt i = n.byteAt i) : m = n := by
  obtain ⟨ms, mc⟩ := m
  obtain ⟨ns, nc⟩ := n
  simp only at hs
  subst hs
  simp only [Memory.mk.injEq, true_and]
  exact cells_eq_of_reads hm hn h

/-! ## Bitmaps -/

theorem positionsWf_cons {n lo a : Nat} {rest : List Nat} :
    positionsWf n lo (a :: rest) = true ↔ lo ≤ a ∧ a < n ∧ positionsWf n (a + 1) rest = true := by
  simp [positionsWf, and_assoc]

theorem positionsWf_lower {n lo lo' : Nat} {ps : List Nat} (h : positionsWf n lo ps = true) (hl : lo' ≤ lo) :
    positionsWf n lo' ps = true := by
  cases ps with
  | nil => rfl
  | cons a rest => rw [positionsWf_cons] at h ⊢; exact ⟨by omega, h.2⟩

theorem not_mem_of_positionsWf {n i : Nat} {ps : List Nat} :
    ∀ {lo : Nat}, positionsWf n lo ps = true → i < lo → i ∉ ps := by
  induction ps with
  | nil => intro _ _ _; simp
  | cons a rest ih =>
    intro lo h hi
    rw [positionsWf_cons] at h
    have := ih h.2.2 (by omega)
    simp only [List.mem_cons, not_or]
    exact ⟨by omega, this⟩

/-- A bitmap write keeps the canonical form. -/
theorem positionsPut_wf {n i : Nat} {b : Bool} {ps : List Nat} (hi : i < n) :
    ∀ {lo : Nat}, positionsWf n lo ps = true → lo ≤ i → positionsWf n lo (positionsPut ps i b) = true := by
  cases b with
  | true =>
    simp only [positionsPut, if_true]
    induction ps with
    | nil => intro lo _ hl; simp only [positionsSet, positionsWf_cons]; exact ⟨hl, hi, rfl⟩
    | cons a rest ih =>
      intro lo h hl
      have h' := positionsWf_cons.mp h
      simp only [positionsSet]
      split
      · simp only [positionsWf_cons]; exact ⟨hl, hi, by omega, h'.2⟩
      · split
        · exact h
        · rw [positionsWf_cons]; exact ⟨h'.1, h'.2.1, ih h'.2.2 (by omega)⟩
  | false =>
    simp only [positionsPut, Bool.false_eq_true, if_false]
    induction ps with
    | nil => intro lo h _; exact h
    | cons a rest ih =>
      intro lo h hl
      have h' := positionsWf_cons.mp h
      simp only [positionsClear]
      split
      · exact positionsWf_lower h'.2.2 (by omega)
      · rw [positionsWf_cons]
        refine ⟨h'.1, h'.2.1, ?_⟩
        by_cases hia : a + 1 ≤ i
        · exact ih h'.2.2 hia
        · have hnot := not_mem_of_positionsWf (i := i) h'.2.2 (by omega)
          have : positionsClear rest i = rest := by
            clear ih h h'
            induction rest with
            | nil => rfl
            | cons c cs ihc =>
              simp only [List.mem_cons, not_or] at hnot
              simp only [positionsClear, hnot.1, if_false]
              rw [ihc hnot.2]
          rw [this]; exact h'.2.2

/-- The bit written reads back; every other bit reads as before. -/
theorem contains_positionsPut {n i j : Nat} {b : Bool} {ps : List Nat} :
    ∀ {lo : Nat}, positionsWf n lo ps = true →
      (positionsPut ps i b).contains j = if j = i then b else ps.contains j := by
  cases b with
  | true =>
    simp only [positionsPut, if_true]
    induction ps with
    | nil => intro lo _; by_cases hj : j = i <;> simp [positionsSet, hj]
    | cons a rest ih =>
      intro lo h
      have h' := positionsWf_cons.mp h
      have := ih h'.2.2
      by_cases hia : i < a
      · by_cases hj : j = i <;> simp [positionsSet, hia, hj]
      · by_cases hie : i = a
        · subst hie; by_cases hj : j = i <;> simp [positionsSet, hj]
        · simp only [positionsSet, hia, hie, if_false, List.contains_cons, this]
          by_cases hj : j = i <;> simp [hj]
  | false =>
    simp only [positionsPut, Bool.false_eq_true, if_false]
    induction ps with
    | nil => intro lo _; simp [positionsClear]
    | cons a rest ih =>
      intro lo h
      have h' := positionsWf_cons.mp h
      have := ih h'.2.2
      by_cases hie : i = a
      · subst hie
        have hnot := not_mem_of_positionsWf (i := i) h'.2.2 (by omega)
        by_cases hj : j = i
        · subst hj; simp [positionsClear, hnot]
        · simp [positionsClear, hj]
      · simp only [positionsClear, hie, if_false, List.contains_cons, this]
        by_cases hj : j = i
        · subst hj; simp [hie]
        · simp [hj]

/-! ## Tracks -/

@[simp] theorem Track.put_size (t : Track) (i : Nat) (v : Byte) (m : Bool) : (t.put i v m).data.size = t.data.size := by
  unfold Track.put; split <;> simp

/-- A track write keeps the track well formed. -/
theorem Track.put_wf {t : Track} (i : Nat) (v : Byte) (m : Bool) (h : t.wf = true) : (t.put i v m).wf = true := by
  simp only [Track.wf, Bool.and_eq_true, decide_eq_true_eq] at h
  unfold Track.put
  split
  · simp only [Track.wf, Bool.and_eq_true, decide_eq_true_eq, Memory.write_size]
    exact ⟨⟨h.1.1, Memory.write_wf _ _ h.1.2⟩, positionsPut_wf ‹_› h.2 (Nat.zero_le _)⟩
  · simp only [Track.wf, Bool.and_eq_true, decide_eq_true_eq]; exact h

@[simp] theorem Track.putLogical_size (t : Track) (dd : Bool) (i : Nat) (v : Byte) (m : Bool) :
    (t.putLogical dd i v m).data.size = t.data.size := by
  unfold Track.putLogical; split <;> simp

/-- A logical byte written keeps the track well formed. -/
theorem Track.putLogical_wf {t : Track} (dd : Bool) (i : Nat) (v : Byte) (m : Bool) (h : t.wf = true) :
    (t.putLogical dd i v m).wf = true := by
  unfold Track.putLogical
  split
  · exact Track.put_wf _ _ _ h
  · exact Track.put_wf _ _ _ (Track.put_wf _ _ _ h)

theorem Track.put_read? {t : Track} {i : Nat} (v : Byte) (m : Bool) (j : Nat) (h : t.wf = true)
    (hi : i < t.data.size) : (t.put i v m).data.read? j = if j = i then some v else t.data.read? j := by
  simp only [Track.wf, Bool.and_eq_true, decide_eq_true_eq] at h
  simp only [Track.put, hi, if_true]
  exact Memory.read?_write v j h.1.2 hi

theorem Track.put_mark {t : Track} {i : Nat} (v : Byte) (m : Bool) (j : Nat) (h : t.wf = true)
    (hi : i < t.data.size) : (t.put i v m).idam.contains j = if j = i then m else t.idam.contains j := by
  simp only [Track.wf, Bool.and_eq_true, decide_eq_true_eq] at h
  simp only [Track.put, hi, if_true]
  exact contains_positionsPut h.2

/-! ## Images -/

theorem findTrack_update (f : Track → Track) (es : List TrackEntry) (c c' : Nat) (sd sd' : Bool) :
    findTrack (updateTrack f es c sd) c' sd' =
      if c' = c ∧ sd' = sd then (findTrack es c sd).map f else findTrack es c' sd' := by
  induction es with
  | nil => simp [updateTrack, findTrack]
  | cons e rest ih =>
    simp only [updateTrack]
    by_cases he : e.isAt c sd = true
    · by_cases hc : c' = c ∧ sd' = sd
      · obtain ⟨rfl, rfl⟩ := hc
        have he' : ({ e with track := f e.track } : TrackEntry).isAt c' sd' = true := he
        simp [findTrack, he, he']
      · have hne : e.isAt c' sd' = false := by
          simp only [TrackEntry.isAt, Bool.and_eq_true, beq_iff_eq] at he
          simp only [TrackEntry.isAt, Bool.and_eq_false_iff, beq_eq_false_iff_ne]
          by_contra hcon
          rw [not_or, not_not, not_not] at hcon
          exact hc ⟨hcon.1.symm.trans he.1, hcon.2.symm.trans he.2⟩
        have hne' : ({ e with track := f e.track } : TrackEntry).isAt c' sd' = false := hne
        simp [findTrack, he, hne, hne', hc]
    · simp only [he, if_false, Bool.false_eq_true, findTrack, ih]
      by_cases hc : c' = c ∧ sd' = sd
      · obtain ⟨rfl, rfl⟩ := hc; simp [he]
      · simp [hc]

theorem updateTrack_keys (f : Track → Track) (e : TrackEntry) (es : List TrackEntry) (c : Nat) (sd : Bool) :
    (updateTrack f es c sd).all (fun g => !(g.cylinder == e.cylinder && g.sideOne == e.sideOne)) =
      es.all (fun g => !(g.cylinder == e.cylinder && g.sideOne == e.sideOne)) := by
  induction es with
  | nil => rfl
  | cons g rest ih =>
    simp only [updateTrack]
    split
    · rfl
    · simp only [List.all_cons, ih]

/-- An image stays well formed when its tracks do. -/
theorem updateTrack_wf {f : Track → Track} (hf : ∀ t : Track, t.wf = true → (f t).wf = true) {es : List TrackEntry}
    (c : Nat) (sd : Bool) (h : trackEntriesWf es = true) : trackEntriesWf (updateTrack f es c sd) = true := by
  induction es with
  | nil => rfl
  | cons e rest ih =>
    simp only [trackEntriesWf, Bool.and_eq_true] at h
    simp only [updateTrack]
    split
    · simp only [trackEntriesWf, Bool.and_eq_true]; exact ⟨⟨hf _ h.1.1, h.1.2⟩, h.2⟩
    · simp only [trackEntriesWf, Bool.and_eq_true, updateTrack_keys]; exact ⟨⟨h.1.1, h.1.2⟩, ih h.2⟩

/-- A track found in a well-formed image is well formed. -/
theorem findTrack_wf {es : List TrackEntry} {c : Nat} {sd : Bool} {t : Track} (h : trackEntriesWf es = true)
    (ht : findTrack es c sd = some t) : t.wf = true := by
  induction es with
  | nil => simp [findTrack] at ht
  | cons e rest ih =>
    simp only [trackEntriesWf, Bool.and_eq_true] at h
    simp only [findTrack] at ht
    split at ht
    · simp only [Option.some.injEq] at ht; subst ht; exact h.1.1
    · exact ih h.2 ht

/-- A drive's disk stays well formed under a media write at its head. -/
theorem DriveState.writeTrack_wf {d : DriveState} (sd dd : Bool) (i : Nat) (v : Byte) (m : Bool)
    (h : floppyWf d.floppy = true) : floppyWf (d.writeTrack sd dd i v m).floppy = true := by
  unfold DriveState.writeTrack
  split
  · exact h
  · rename_i img heq
    split
    · exact h
    · rw [heq] at h
      exact updateTrack_wf (fun t ht => Track.putLogical_wf dd i v m ht) _ _ h

@[simp] theorem DriveState.writeTrack_physicalTrack (d : DriveState) (sd dd : Bool) (i : Nat) (v : Byte) (m : Bool) :
    (d.writeTrack sd dd i v m).physicalTrack = d.physicalTrack := by
  unfold DriveState.writeTrack; split
  · rfl
  · split <;> rfl

@[simp] theorem DriveState.writeTrack_writeProtected (d : DriveState) (sd dd : Bool) (i : Nat) (v : Byte) (m : Bool) :
    (d.writeTrack sd dd i v m).writeProtected = d.writeProtected := by
  unfold DriveState.writeTrack; split
  · rfl
  · split <;> rfl

/-- The reset memory is in canonical form: the blank tape lists nothing. -/
theorem reset_tape_wf (p : Config.Params) : (Cassette.reset p).data.wf = true := rfl

end Sys2Proof.Machine
end

