-- ==== Sys2Proof/Laws/Media.lean ====
section
/-! SUPPORT. A media write, said once: it replaces the drives alone, it puts one logical byte on the bound track, and it
changes no track's length. -/

namespace Sys2Proof.Machine

/-- The bound track is the track of the selected drive at its head, on the selected side (10_state.md R36). -/
theorem boundTrack_trackAt {s : State} {d : DriveId} (h : s.fdc.currentDrive = some d) :
    boundTrack s = trackAt s d (s.drives.get d).physicalTrack s.fdc.sideOneSelected := by
  simp only [boundTrack, curDrive, h, Option.map_some, trackAt]

/-- A media write replaces the drives and nothing else. -/
theorem trackWrite_drives (i : Nat) (v : Byte) (m : Bool) (s : State) :
    trackWrite i v m s = { s with drives := (trackWrite i v m s).drives } := by
  unfold trackWrite mapCurDrive
  cases s.fdc.currentDrive <;> rfl

@[simp] theorem trackWrite_fdc (i : Nat) (v : Byte) (m : Bool) (s : State) : (trackWrite i v m s).fdc = s.fdc := by
  rw [trackWrite_drives]

@[simp] theorem trackWrite_tickCount (i : Nat) (v : Byte) (m : Bool) (s : State) :
    (trackWrite i v m s).tickCount = s.tickCount := by
  rw [trackWrite_drives]

@[simp] theorem trackWrite_params (i : Nat) (v : Byte) (m : Bool) (s : State) :
    (trackWrite i v m s).params = s.params := by
  rw [trackWrite_drives]

/-- The drives after a media write, by name. -/
theorem trackWrite_get (i : Nat) (v : Byte) (m : Bool) (s : State) (d : DriveId) :
    (trackWrite i v m s).drives.get d =
      if s.fdc.currentDrive = some d then
        (s.drives.get d).writeTrack s.fdc.sideOneSelected s.fdc.doubleDensity i v m
      else s.drives.get d := by
  unfold trackWrite mapCurDrive
  cases h : s.fdc.currentDrive with
  | none => simp
  | some e =>
    simp only [Drives.get_set, Option.some.injEq]
    by_cases hd : d = e
    · subst hd; simp
    · simp [hd, Ne.symm hd]

/-- The tracks after a media write: one logical byte on the bound track, and every other track as before. -/
theorem trackAt_trackWrite (i : Nat) (v : Byte) (m : Bool) (s : State) (d : DriveId) (c : Nat) (sd : Bool) :
    trackAt (trackWrite i v m s) d c sd =
      if s.fdc.currentDrive = some d ∧ c = (s.drives.get d).physicalTrack ∧ sd = s.fdc.sideOneSelected then
        (trackAt s d c sd).map fun t => t.putLogical s.fdc.doubleDensity i v m
      else trackAt s d c sd := by
  unfold trackAt
  rw [trackWrite_get]
  by_cases hd : s.fdc.currentDrive = some d
  · rw [if_pos hd]
    unfold DriveState.writeTrack
    cases hf : (s.drives.get d).floppy with
    | none => simp [hf]
    | some img =>
      cases ht : findTrack img.tracks (s.drives.get d).physicalTrack s.fdc.sideOneSelected with
      | none =>
        simp only [hf, ht, hd, true_and]
        split
        · rename_i hc; obtain ⟨rfl, rfl⟩ := hc; simp [ht]
        · rfl
      | some tr =>
        simp only [ht, hd, true_and, findTrack_update]
        split
        · rename_i hc; obtain ⟨rfl, rfl⟩ := hc; simp [ht]
        · rfl
  · rw [if_neg hd, if_neg (fun h => hd h.1)]

/-- A media write changes no track's length. -/
theorem boundTrack_size_trackWrite (i : Nat) (v : Byte) (m : Bool) (s : State) :
    (boundTrack (trackWrite i v m s)).map (fun t => t.data.size) = (boundTrack s).map (fun t => t.data.size) := by
  cases hd : s.fdc.currentDrive with
  | none => simp [boundTrack, curDrive, hd]
  | some d =>
    have hw : (trackWrite i v m s).fdc.currentDrive = some d := by rw [trackWrite_fdc]; exact hd
    rw [boundTrack_trackAt hd, boundTrack_trackAt hw, trackAt_trackWrite, trackWrite_get, trackWrite_fdc]
    simp only [hd, if_true, DriveState.writeTrack_physicalTrack, and_self, Option.map_map]
    congr 1
    funext t
    simp

/-- The track's length, and with it the head's index and every wait, is the same after a media write. -/
theorem trackLen_trackWrite (i : Nat) (v : Byte) (m : Bool) (s : State) : trackLen (trackWrite i v m s) = trackLen s := by
  have h := boundTrack_size_trackWrite i v m s
  unfold trackLen
  rw [trackWrite_fdc]
  cases h1 : boundTrack (trackWrite i v m s) <;> cases h2 : boundTrack s <;> simp_all

/-- One logical byte of a track reads back at its one or two positions; every other byte is as before. -/
theorem Track.putLogical_read? {t : Track} {i : Nat} (dd : Bool) (v : Byte) (m : Bool) (j : Nat) (h : t.wf = true)
    (hi : i < t.data.size) :
    (t.putLogical dd i v m).data.read? j =
      if j = i ∨ (dd = false ∧ j = (i + 1) % t.data.size) then some v else t.data.read? j := by
  have hn : (i + 1) % t.data.size < t.data.size := Nat.mod_lt _ (by omega)
  cases dd with
  | true => simp [Track.putLogical, Track.put_read? v m j h hi]
  | false =>
    simp only [Track.putLogical, Bool.false_eq_true, if_false, true_and]
    rw [Track.put_read? v false j (Track.put_wf i v m h) (by rw [Track.put_size]; exact hn),
      Track.put_read? v m j h hi]
    by_cases h1 : j = i <;> by_cases h2 : j = (i + 1) % t.data.size <;> simp [h1, h2]

/-- The IDAM bits after one logical byte is written: the mark at its first position, clear at its second, every other bit
as before. -/
theorem Track.putLogical_mark {t : Track} {i : Nat} (dd : Bool) (v : Byte) (m : Bool) (j : Nat) (h : t.wf = true)
    (hi : i < t.data.size) :
    (t.putLogical dd i v m).idam.contains j =
      if dd = false ∧ j = (i + 1) % t.data.size then false else if j = i then m else t.idam.contains j := by
  have hn : (i + 1) % t.data.size < t.data.size := Nat.mod_lt _ (by omega)
  cases dd with
  | true => simp only [Track.putLogical, if_true, Track.put_mark v m j h hi, Bool.true_eq_false, false_and, if_false]
  | false =>
    simp only [Track.putLogical, Bool.false_eq_true, if_false, true_and]
    rw [Track.put_mark v false j (Track.put_wf i v m h) (by rw [Track.put_size]; exact hn), Track.put_mark v m j h hi]

end Sys2Proof.Machine
end

