-- ==== Sys2Proof/Laws/Ops.lean ====
section
/-! SUPPORT. For each shared operation, once, everything it does where it answers a next state. -/

namespace Sys2Proof.Machine

section

variable {f : State → Host.Outcome State Fault Refusal} {s t : State}

/-! ## Media and tape guards -/

/-- `withHead` runs its body exactly where the head can address the track. -/
theorem withHead_next (h : withHead f s = .next t) :
    trackDataIndex s < trackLen s ∧ (s.fdc.doubleDensity = true ∨ trackLen s % 2 = 0) ∧ f s = .next t := by
  unfold withHead at h
  split at h
  · cases h
  · split at h
    · cases h
    · rename_i hi hd
      refine ⟨Nat.lt_of_not_le hi, ?_, h⟩
      cases hdd : s.fdc.doubleDensity
      · right
        simp only [hdd, Bool.not_false, Bool.true_and, beq_iff_eq] at hd
        omega
      · exact Or.inl rfl

/-- `withHead` stops by itself in two ways only. -/
theorem withHead_stops (h : trackDataIndex s < trackLen s)
    (hd : s.fdc.doubleDensity = true ∨ trackLen s % 2 = 0) : withHead f s = f s := by
  unfold withHead
  rw [if_neg (Nat.not_le.mpr h)]
  rcases hd with hd | hd <;> simp [hd]

/-- `withTape` runs its body exactly where the cursor stands on the tape. -/
theorem withTape_next (h : withTape f s = .next t) : s.cas.byteCursor < s.cas.data.size ∧ f s = .next t := by
  unfold withTape at h
  split at h
  · cases h
  · rename_i hc
    exact ⟨Nat.lt_of_not_le hc, h⟩

/-- A deck action runs exactly where the motor is not engaged. -/
theorem whileReleased_next (h : whileReleased f s = .next t) : s.cas.motorEngaged = false ∧ f s = .next t := by
  unfold whileReleased at h
  split at h
  · cases h
  · rename_i hm
    exact ⟨by simpa using hm, h⟩

/-! ## Waits and searches -/

/-- `waitBytes` arms the byte wait. -/
theorem waitBytes_next {n : Nat} {st : OpStatus} (h : waitBytes n st s = .next t) : t = armByteWait n st s := by
  have := (withHead_next h).2.2
  simpa using this.symm

/-- A search sets the index count and waits one byte. -/
theorem startSearch_next {st : OpStatus} (h : startSearch st s = .next t) : t = armByteWait 1 st (resetIndexCount s) :=
  waitBytes_next h

/-- The optional delay: a time wait with the flag, else the search. -/
theorem delayOrSearch_next {st : OpStatus} (h : delayOrSearch st s = .next t) :
    (s.fdc.delay = true ∧ t = waitTime s.params.delayFlagUs .delay s) ∨
      (s.fdc.delay = false ∧ t = armByteWait 1 st (resetIndexCount s)) := by
  unfold delayOrSearch at h
  split at h
  · rename_i hd
    left
    exact ⟨hd, by simpa using h.symm⟩
  · rename_i hd
    exact Or.inr ⟨by simpa using hd, startSearch_next h⟩

/-- State `SeekingIDAM` ends the search, takes the IDAM or waits on. -/
theorem seekingIDAM_next (h : seekingIDAM s = .next t) :
    (5 ≤ indexesFound s ∧ t = terminate { s with fdc.seekError := true }) ∨
    (indexesFound s < 5 ∧ hasIdam s (trackDataIndex s) = true ∧
      t = armByteWait 1 .readingAddressData
        { startCrc (trackByte s (trackDataIndex s)) (afterTrackRead s) with fdc.readAddressIndex := 0 }) ∨
    (indexesFound s < 5 ∧ hasIdam s (trackDataIndex s) = false ∧ t = armByteWait 1 .seekingIDAM s) := by
  unfold seekingIDAM at h
  split at h
  · rename_i h5
    left
    exact ⟨h5, by simpa using h.symm⟩
  · rename_i h5
    have hb := (withHead_next h).2.2
    right
    split at hb
    · rename_i hi
      exact Or.inl ⟨Nat.lt_of_not_le h5, hi, waitBytes_next hb⟩
    · rename_i hi
      exact Or.inr ⟨Nat.lt_of_not_le h5, by simpa using hi, waitBytes_next hb⟩

/-- A header byte goes on with the header-complete rule at the sixth, else it waits for the next. -/
theorem headerByte_next {b : Byte} (h : headerByte b f s = .next t) :
    (s.fdc.readAddressIndex = 5 ∧ f (captureHeaderCrc (storeHeaderByte b s)) = .next t) ∨
    (s.fdc.readAddressIndex ≠ 5 ∧ t = armByteWait 1 .readingAddressData (storeHeaderByte b s)) := by
  unfold headerByte at h
  split at h
  · rename_i h6
    exact Or.inl ⟨by omega, h⟩
  · rename_i h6
    exact Or.inr ⟨by omega, waitBytes_next h⟩

/-- A record ends the command or goes on to the next sector. -/
theorem endRecord_next (h : endRecord s = .next t) :
    (s.fdc.multipleRecords = true ∧
      t = armByteWait 1 .seekingIDAM { s with fdc.sectorRegister := s.fdc.sectorRegister + 1#8 }) ∨
    (s.fdc.multipleRecords = false ∧ t = terminate s) := by
  unfold endRecord at h
  split at h
  · rename_i hm
    exact Or.inl ⟨hm, waitBytes_next h⟩
  · rename_i hm
    right
    exact ⟨by simpa using hm, by simpa using h.symm⟩

/-! ## Heads -/

/-- A step up moves the selected head below 80 and emits the track step, or does nothing. -/
theorem stepUp_cases (s : State) :
    (∃ d, s.fdc.currentDrive = some d ∧ (s.drives.get d).physicalTrack < 80 ∧
      stepUp s = emit .trackStep { s with
        drives := s.drives.set d { s.drives.get d with physicalTrack := (s.drives.get d).physicalTrack + 1 } }) ∨
    stepUp s = s := by
  unfold stepUp curDrive mapCurDrive
  cases hd : s.fdc.currentDrive with
  | none => exact Or.inr rfl
  | some d =>
    simp only [Option.map_some]
    split
    · rename_i hl
      exact Or.inl ⟨d, rfl, hl, rfl⟩
    · exact Or.inr rfl

/-- A step down moves the selected head above 0, emits the track step and clears the counter on arriving at 0, or does
nothing. -/
theorem stepDown_cases (s : State) :
    (∃ d, s.fdc.currentDrive = some d ∧ 0 < (s.drives.get d).physicalTrack ∧
      stepDown s = emit .trackStep { s with
        drives := s.drives.set d { s.drives.get d with physicalTrack := (s.drives.get d).physicalTrack - 1 }
        fdc := { s.fdc with
          trackRegister := if (s.drives.get d).physicalTrack = 1 then 0x00#8 else s.fdc.trackRegister } }) ∨
    stepDown s = s := by
  unfold stepDown curDrive mapCurDrive
  cases hd : s.fdc.currentDrive with
  | none => exact Or.inr rfl
  | some d =>
    simp only [Option.map_some]
    split
    · rename_i hl
      exact Or.inl ⟨d, rfl, hl, rfl⟩
    · exact Or.inr rfl

/-! ## Clock and scheduler -/

/-- `Advance(d)` is enabled exactly for a `d` of at least 1 where every active request is still to fall due and would be passed
by no more than `MAX_LATENESS` (R131, R142). -/
theorem advanceEnabled_iff (s : State) (d : Nat) :
    advanceEnabled s d = true ↔
      1 ≤ d ∧ ∀ q, (s.sched.get q).active = true →
        s.tickCount < (s.sched.get q).trigger ∧
          s.tickCount + d ≤ (s.sched.get q).trigger + s.params.maxLateness := by
  have mem : ∀ q, q ∈ allRequests := fun q => by cases q <;> decide
  simp only [advanceEnabled, due, Bool.and_eq_true, decide_eq_true_eq, List.all_eq_true]
  refine and_congr_right fun _ => ⟨fun h q ha => ?_, fun h q _ => ?_⟩
  · simpa [ha] using h q (mem q)
  · by_cases ha : (s.sched.get q).active = true
    · simpa [ha] using h q ha
    · simp [ha]

/-- `Advance` moves the clock and nothing else, only where it is enabled and within 64 bits. -/
theorem advance_next {d : Nat} (h : advance d s = .next t) :
    t = { s with tickCount := s.tickCount + d } ∧ advanceEnabled s d = true ∧ s.tickCount + d < Config.tickLimit := by
  unfold advance at h
  split at h
  · cases h
  · split at h
    · cases h
    · rename_i he hl
      refine ⟨?_, by simpa using he, Nat.lt_of_not_le hl⟩
      simpa using h.symm

/-- `Fire` runs the callback of the request it takes. -/
theorem fire_next (h : fire s = .next t) :
    ∃ q, nextDue s = some q ∧ runCallback (s.sched.get q).callback (expire q s) = .next t := by
  unfold fire at h
  split at h
  · cases h
  · rename_i q hq
    exact ⟨q, hq, h⟩

/-! ## Cassette -/

/-- `UpdateMotor` starts the motor, stops it or does nothing. -/
theorem updateMotor_next (h : updateMotor s = .next t) :
    (s.cas.motorEngaged = true ∧ s.cas.motorOnSignal = true ∧ s.cas.motorOn = false ∧
      ((s.cas.recordInvoked = true ∧ t = { s with cas.motorOn := true }) ∨
        (s.cas.recordInvoked = false ∧ s.cas.byteCursor < s.cas.data.size ∧
          t = startRead { s with cas.motorOn := true }))) ∨
    ((s.cas.motorEngaged && s.cas.motorOnSignal) = false ∧ s.cas.motorOn = true ∧ t = motorTurnsOff s) ∨
    ((s.cas.motorEngaged && s.cas.motorOnSignal) = s.cas.motorOn ∧ t = s) := by
  unfold updateMotor at h
  simp only at h
  split at h
  · rename_i hn
    simp only [Bool.and_eq_true, Bool.not_eq_true'] at hn
    left
    refine ⟨hn.1.1, hn.1.2, hn.2, ?_⟩
    split at h
    · rename_i hr
      exact Or.inl ⟨hr, by simpa using h.symm⟩
    · rename_i hr
      have hw := withTape_next h
      exact Or.inr ⟨by simpa using hr, hw.1, by simpa using hw.2.symm⟩
  · rename_i hn
    right
    split at h
    · rename_i ho
      simp only [Bool.and_eq_true, Bool.not_eq_true'] at ho
      exact Or.inl ⟨ho.1, ho.2, by simpa using h.symm⟩
    · rename_i ho
      right
      refine ⟨?_, by simpa using h.symm⟩
      revert hn ho
      cases (s.cas.motorEngaged && s.cas.motorOnSignal) <;> cases s.cas.motorOn <;> simp

/-- `AdvanceCursor` moves within the byte, to the next byte, into a grown tape, or stops the tape. -/
theorem advanceCursor_cases (w : Bool) (s : State) :
    (0 < s.cas.bitCursor ∧ advanceCursor w s = { s with cas.bitCursor := s.cas.bitCursor - 1 }) ∨
    (s.cas.bitCursor = 0 ∧ s.cas.byteCursor + 1 < s.cas.data.size ∧
      advanceCursor w s = { s with cas := toNextByte (leaveByte w s.cas) }) ∨
    (s.cas.bitCursor = 0 ∧ s.cas.data.size ≤ s.cas.byteCursor + 1 ∧ w = true ∧
      s.cas.data.size < grownLength s.cas ∧
      advanceCursor w s =
        { s with cas := toNextByte { s.cas with data := s.cas.data.grow (grownLength s.cas) } }) ∨
    (s.cas.bitCursor = 0 ∧ s.cas.data.size ≤ s.cas.byteCursor + 1 ∧
      advanceCursor w s = stopTape { s with cas := leaveByte w s.cas }) := by
  unfold advanceCursor
  split
  · rename_i h0
    exact Or.inl ⟨h0, rfl⟩
  · rename_i h0
    have hz : s.cas.bitCursor = 0 := by omega
    split
    · rename_i h1
      exact Or.inr (Or.inl ⟨hz, h1, rfl⟩)
    · rename_i h1
      split
      · rename_i h2
        simp only [Bool.and_eq_true, canGrow, decide_eq_true_eq] at h2
        exact Or.inr (Or.inr (Or.inl ⟨hz, by omega, h2.1, h2.2, rfl⟩))
      · exact Or.inr (Or.inr (Or.inr ⟨hz, by omega, rfl⟩))

/-! ## Commands and ports -/

/-- The write of a Type I, II or III byte: ignored while disabled, else an idle FDC starts the command. -/
theorem startCommand_next {v : Byte} {c : Command} (h : startCommand v c s = .next t) :
    (s.fdc.enabled = false ∧ t = s) ∨
      (s.fdc.enabled = true ∧ s.fdc.busy = false ∧ fdcAdvance (acceptCommand v c s) = .next t) := by
  unfold startCommand at h
  cases he : s.fdc.enabled <;> simp only [he, Bool.not_true, Bool.not_false, if_true] at h
  · left
    exact ⟨rfl, by simpa using h.symm⟩
  · right
    cases hb : s.fdc.busy <;> simp only [hb, Bool.false_eq_true, if_false, if_true] at h
    · exact ⟨rfl, rfl, h⟩
    · cases h

/-- A register write: ignored while disabled. -/
theorem fdcWrite_next {g : State → State} (h : fdcWrite g s = .next t) :
    (s.fdc.enabled = true ∧ t = g s) ∨ (s.fdc.enabled = false ∧ t = s) := by
  unfold fdcWrite at h
  cases he : s.fdc.enabled <;> simp only [he, Bool.false_eq_true, if_false, if_true, Host.Outcome.next.injEq] at h
  · exact Or.inr ⟨rfl, h.symm⟩
  · exact Or.inl ⟨rfl, h.symm⟩

/-- A register read: 0xFF and no effect while disabled. -/
theorem fdcRead_next {p v : Byte} {g : State → State} (h : fdcRead p v g s = .next t) :
    (s.fdc.enabled = true ∧ t = emit (.busRead p v) (g s)) ∨
      (s.fdc.enabled = false ∧ t = emit (.busRead p 0xFF#8) s) := by
  unfold fdcRead at h
  cases he : s.fdc.enabled <;> simp only [he, Bool.false_eq_true, if_false, if_true, Host.Outcome.next.injEq] at h
  · exact Or.inr ⟨rfl, h.symm⟩
  · exact Or.inl ⟨rfl, h.symm⟩

/-! ## The step -/

/-- A step performs the oldest input, fires, or lets the clock run to the earliest trigger. -/
theorem step_next (h : step s = .next t) :
    (∃ i rest, s.inputs = i :: rest ∧ perform i (beginStep rest s) = .next t) ∨
    (s.inputs = [] ∧ (∃ q, nextDue (beginStep [] s) = some q) ∧ fire (beginStep [] s) = .next t) ∨
    (s.inputs = [] ∧ nextDue (beginStep [] s) = none ∧
      t = { beginStep [] s with tickCount := s.tickCount + idleTicks (beginStep [] s) }) := by
  unfold step runStep at h
  split at h
  · rename_i hi
    unfold idle at h
    split at h
    · rename_i q hq
      exact Or.inr (Or.inl ⟨hi, ⟨q, hq⟩, h⟩)
    · rename_i hq
      exact Or.inr (Or.inr ⟨hi, hq, (advance_next h).1⟩)
  · rename_i i rest hi
    exact Or.inl ⟨i, rest, hi, h⟩

end

end Sys2Proof.Machine
end

