-- ==== Sys2Proof/Laws/PerInstr.lean ====
section
/-! SUPPORT. Statements about every instruction as syntax, one lemma per constructor. -/

namespace Sys2Proof.Laws.EncodedRow

/-- The mask and the pattern of an instruction's row of spec/opcode_table.json. -/
def rowOf : Instr → Byte × Byte
  | .restore _ _ _ => (0xF0#8, 0x00#8)
  | .seek _ _ _ => (0xF0#8, 0x10#8)
  | .step _ _ _ _ => (0xE0#8, 0x20#8)
  | .stepIn _ _ _ _ => (0xE0#8, 0x40#8)
  | .stepOut _ _ _ _ => (0xE0#8, 0x60#8)
  | .rdsec _ _ _ _ _ => (0xE0#8, 0x80#8)
  | .wrsec _ _ _ _ _ => (0xE0#8, 0xA0#8)
  | .rdaddr _ _ _ => (0xF0#8, 0xC0#8)
  | .reset => (0xFF#8, 0xD0#8)
  | .forceintD1 => (0xFF#8, 0xD1#8)
  | .forceintD2 _ => (0xFE#8, 0xD2#8)
  | .forceintD4 _ => (0xFC#8, 0xD4#8)
  | .forceintimm => (0xFF#8, 0xD8#8)
  | .forceintD9 => (0xFF#8, 0xD9#8)
  | .forceintDA _ => (0xFE#8, 0xDA#8)
  | .forceintDC _ => (0xFC#8, 0xDC#8)
  | .rdtrk _ _ _ => (0xF0#8, 0xE0#8)
  | .wrtrk _ _ _ => (0xF0#8, 0xF0#8)

/-- The encoding of an instruction is one byte, and that byte has the fixed bits of the instruction's row. -/
def Statement (i : Instr) : Prop :=
  encode i = [encodeByte i] ∧ matchesRow (rowOf i).1 (rowOf i).2 (encodeByte i) = true

theorem restore (h v : Bool) (r : BitVec 2) : Statement (.restore h v r) :=
  ⟨rfl, by revert h v r; decide⟩

theorem seek (h v : Bool) (r : BitVec 2) : Statement (.seek h v r) :=
  ⟨rfl, by revert h v r; decide⟩

theorem step (u h v : Bool) (r : BitVec 2) : Statement (.step u h v r) :=
  ⟨rfl, by revert u h v r; decide⟩

theorem stepIn (u h v : Bool) (r : BitVec 2) : Statement (.stepIn u h v r) :=
  ⟨rfl, by revert u h v r; decide⟩

theorem stepOut (u h v : Bool) (r : BitVec 2) : Statement (.stepOut u h v r) :=
  ⟨rfl, by revert u h v r; decide⟩

theorem rdsec (m sd e c x : Bool) : Statement (.rdsec m sd e c x) :=
  ⟨rfl, by revert m sd e c x; decide⟩

theorem wrsec (m sd e c a0 : Bool) : Statement (.wrsec m sd e c a0) :=
  ⟨rfl, by revert m sd e c a0; decide⟩

theorem rdaddr (x3 e : Bool) (x10 : BitVec 2) : Statement (.rdaddr x3 e x10) :=
  ⟨rfl, by revert x3 e x10; decide⟩

theorem reset : Statement .reset := ⟨rfl, by decide⟩

theorem forceintD1 : Statement .forceintD1 := ⟨rfl, by decide⟩

theorem forceintD2 (x : Bool) : Statement (.forceintD2 x) := ⟨rfl, by revert x; decide⟩

theorem forceintD4 (x : BitVec 2) : Statement (.forceintD4 x) := ⟨rfl, by revert x; decide⟩

theorem forceintimm : Statement .forceintimm := ⟨rfl, by decide⟩

theorem forceintD9 : Statement .forceintD9 := ⟨rfl, by decide⟩

theorem forceintDA (x : Bool) : Statement (.forceintDA x) := ⟨rfl, by revert x; decide⟩

theorem forceintDC (x : BitVec 2) : Statement (.forceintDC x) := ⟨rfl, by revert x; decide⟩

theorem rdtrk (x3 e : Bool) (x10 : BitVec 2) : Statement (.rdtrk x3 e x10) :=
  ⟨rfl, by revert x3 e x10; decide⟩

theorem wrtrk (x3 e : Bool) (x10 : BitVec 2) : Statement (.wrtrk x3 e x10) :=
  ⟨rfl, by revert x3 e x10; decide⟩

end Sys2Proof.Laws.EncodedRow
end

