-- ==== Sys2Proof/Laws/Sequencer.lean ====
section
/-! SUPPORT. The dispatch of the sequencer, one lemma per row of 42_fdc_ports_dispatch.md R241: which rule a firing runs. -/

namespace Sys2Proof.Machine

section

variable {s : State}

theorem fdcAdvance_restore_prepare (hc : s.fdc.command = .restore) (ho : s.fdc.opStatus = .prepare) :
    fdcAdvance s = .next (typeIPrepare s) := by
  simp only [fdcAdvance, ho, commandAdvance, hc, typeIAdvance]

theorem fdcAdvance_restore_step (hc : s.fdc.command = .restore) (ho : s.fdc.opStatus = .step) :
    fdcAdvance s = .next (typeIStep s) := by
  simp only [fdcAdvance, ho, commandAdvance, hc, typeIAdvance]

theorem fdcAdvance_restore_checkVerify (hc : s.fdc.command = .restore) (ho : s.fdc.opStatus = .checkVerify) :
    fdcAdvance s = .next (checkVerify s) := by
  simp only [fdcAdvance, ho, commandAdvance, hc, typeIAdvance]

theorem fdcAdvance_restore_seekingIDAM (hc : s.fdc.command = .restore) (ho : s.fdc.opStatus = .seekingIDAM) :
    fdcAdvance s = seekingIDAM s := by
  simp only [fdcAdvance, ho, commandAdvance, hc, typeIAdvance]

theorem fdcAdvance_restore_readingAddressData (hc : s.fdc.command = .restore) (ho : s.fdc.opStatus = .readingAddressData) :
    fdcAdvance s = readingAddressData verifyTrack s := by
  simp only [fdcAdvance, ho, commandAdvance, hc, typeIAdvance]

theorem fdcAdvance_seek_prepare (hc : s.fdc.command = .seek) (ho : s.fdc.opStatus = .prepare) :
    fdcAdvance s = .next (typeIPrepare s) := by
  simp only [fdcAdvance, ho, commandAdvance, hc, typeIAdvance]

theorem fdcAdvance_seek_step (hc : s.fdc.command = .seek) (ho : s.fdc.opStatus = .step) :
    fdcAdvance s = .next (typeIStep s) := by
  simp only [fdcAdvance, ho, commandAdvance, hc, typeIAdvance]

theorem fdcAdvance_seek_checkVerify (hc : s.fdc.command = .seek) (ho : s.fdc.opStatus = .checkVerify) :
    fdcAdvance s = .next (checkVerify s) := by
  simp only [fdcAdvance, ho, commandAdvance, hc, typeIAdvance]

theorem fdcAdvance_seek_seekingIDAM (hc : s.fdc.command = .seek) (ho : s.fdc.opStatus = .seekingIDAM) :
    fdcAdvance s = seekingIDAM s := by
  simp only [fdcAdvance, ho, commandAdvance, hc, typeIAdvance]

theorem fdcAdvance_seek_readingAddressData (hc : s.fdc.command = .seek) (ho : s.fdc.opStatus = .readingAddressData) :
    fdcAdvance s = readingAddressData verifyTrack s := by
  simp only [fdcAdvance, ho, commandAdvance, hc, typeIAdvance]

theorem fdcAdvance_step_prepare (hc : s.fdc.command = .step) (ho : s.fdc.opStatus = .prepare) :
    fdcAdvance s = .next (typeIPrepare s) := by
  simp only [fdcAdvance, ho, commandAdvance, hc, typeIAdvance]

theorem fdcAdvance_step_step (hc : s.fdc.command = .step) (ho : s.fdc.opStatus = .step) :
    fdcAdvance s = .next (typeIStep s) := by
  simp only [fdcAdvance, ho, commandAdvance, hc, typeIAdvance]

theorem fdcAdvance_step_checkVerify (hc : s.fdc.command = .step) (ho : s.fdc.opStatus = .checkVerify) :
    fdcAdvance s = .next (checkVerify s) := by
  simp only [fdcAdvance, ho, commandAdvance, hc, typeIAdvance]

theorem fdcAdvance_step_seekingIDAM (hc : s.fdc.command = .step) (ho : s.fdc.opStatus = .seekingIDAM) :
    fdcAdvance s = seekingIDAM s := by
  simp only [fdcAdvance, ho, commandAdvance, hc, typeIAdvance]

theorem fdcAdvance_step_readingAddressData (hc : s.fdc.command = .step) (ho : s.fdc.opStatus = .readingAddressData) :
    fdcAdvance s = readingAddressData verifyTrack s := by
  simp only [fdcAdvance, ho, commandAdvance, hc, typeIAdvance]

theorem fdcAdvance_readSector_prepare (hc : s.fdc.command = .readSector) (ho : s.fdc.opStatus = .prepare) :
    fdcAdvance s = typeIIPrepare s := by
  simp only [fdcAdvance, ho, commandAdvance, hc, readSectorAdvance]

theorem fdcAdvance_readSector_delay (hc : s.fdc.command = .readSector) (ho : s.fdc.opStatus = .delay) :
    fdcAdvance s = typeIIDelay s := by
  simp only [fdcAdvance, ho, commandAdvance, hc, readSectorAdvance]

theorem fdcAdvance_readSector_seekingIDAM (hc : s.fdc.command = .readSector) (ho : s.fdc.opStatus = .seekingIDAM) :
    fdcAdvance s = seekingIDAM s := by
  simp only [fdcAdvance, ho, commandAdvance, hc, readSectorAdvance]

theorem fdcAdvance_readSector_readingAddressData (hc : s.fdc.command = .readSector) (ho : s.fdc.opStatus = .readingAddressData) :
    fdcAdvance s = readingAddressData typeIIHeader s := by
  simp only [fdcAdvance, ho, commandAdvance, hc, readSectorAdvance]

theorem fdcAdvance_readSector_seekingDAM (hc : s.fdc.command = .readSector) (ho : s.fdc.opStatus = .seekingDAM) :
    fdcAdvance s = seekingDAM s := by
  simp only [fdcAdvance, ho, commandAdvance, hc, readSectorAdvance]

theorem fdcAdvance_readSector_readingData (hc : s.fdc.command = .readSector) (ho : s.fdc.opStatus = .readingData) :
    fdcAdvance s = readSectorData s := by
  simp only [fdcAdvance, ho, commandAdvance, hc, readSectorAdvance]

theorem fdcAdvance_readSector_readCRCHigh (hc : s.fdc.command = .readSector) (ho : s.fdc.opStatus = .readCRCHigh) :
    fdcAdvance s = readCRCHigh s := by
  simp only [fdcAdvance, ho, commandAdvance, hc, readSectorAdvance]

theorem fdcAdvance_readSector_readCRCLow (hc : s.fdc.command = .readSector) (ho : s.fdc.opStatus = .readCRCLow) :
    fdcAdvance s = readCRCLow s := by
  simp only [fdcAdvance, ho, commandAdvance, hc, readSectorAdvance]

theorem fdcAdvance_writeSector_prepare (hc : s.fdc.command = .writeSector) (ho : s.fdc.opStatus = .prepare) :
    fdcAdvance s = typeIIPrepare s := by
  simp only [fdcAdvance, ho, commandAdvance, hc, writeSectorAdvance]

theorem fdcAdvance_writeSector_delay (hc : s.fdc.command = .writeSector) (ho : s.fdc.opStatus = .delay) :
    fdcAdvance s = typeIIDelay s := by
  simp only [fdcAdvance, ho, commandAdvance, hc, writeSectorAdvance]

theorem fdcAdvance_writeSector_seekingIDAM (hc : s.fdc.command = .writeSector) (ho : s.fdc.opStatus = .seekingIDAM) :
    fdcAdvance s = seekingIDAM s := by
  simp only [fdcAdvance, ho, commandAdvance, hc, writeSectorAdvance]

theorem fdcAdvance_writeSector_readingAddressData (hc : s.fdc.command = .writeSector) (ho : s.fdc.opStatus = .readingAddressData) :
    fdcAdvance s = readingAddressData typeIIHeader s := by
  simp only [fdcAdvance, ho, commandAdvance, hc, writeSectorAdvance]

theorem fdcAdvance_writeSector_drqCheck (hc : s.fdc.command = .writeSector) (ho : s.fdc.opStatus = .drqCheck) :
    fdcAdvance s = drqCheck s := by
  simp only [fdcAdvance, ho, commandAdvance, hc, writeSectorAdvance]

theorem fdcAdvance_writeSector_writeFiller (hc : s.fdc.command = .writeSector) (ho : s.fdc.opStatus = .writeFiller) :
    fdcAdvance s = writeFiller s := by
  simp only [fdcAdvance, ho, commandAdvance, hc, writeSectorAdvance]

theorem fdcAdvance_writeSector_writeSync (hc : s.fdc.command = .writeSector) (ho : s.fdc.opStatus = .writeSync) :
    fdcAdvance s = writeSync s := by
  simp only [fdcAdvance, ho, commandAdvance, hc, writeSectorAdvance]

theorem fdcAdvance_writeSector_writeDAM (hc : s.fdc.command = .writeSector) (ho : s.fdc.opStatus = .writeDAM) :
    fdcAdvance s = writeDAM s := by
  simp only [fdcAdvance, ho, commandAdvance, hc, writeSectorAdvance]

theorem fdcAdvance_writeSector_writingData (hc : s.fdc.command = .writeSector) (ho : s.fdc.opStatus = .writingData) :
    fdcAdvance s = writeSectorData s := by
  simp only [fdcAdvance, ho, commandAdvance, hc, writeSectorAdvance]

theorem fdcAdvance_writeSector_writeCRCHigh (hc : s.fdc.command = .writeSector) (ho : s.fdc.opStatus = .writeCRCHigh) :
    fdcAdvance s = writeCRCHigh s := by
  simp only [fdcAdvance, ho, commandAdvance, hc, writeSectorAdvance]

theorem fdcAdvance_writeSector_writeCRCLow (hc : s.fdc.command = .writeSector) (ho : s.fdc.opStatus = .writeCRCLow) :
    fdcAdvance s = writeSectorCRCLow s := by
  simp only [fdcAdvance, ho, commandAdvance, hc, writeSectorAdvance]

theorem fdcAdvance_writeSector_writeTrailer (hc : s.fdc.command = .writeSector) (ho : s.fdc.opStatus = .writeTrailer) :
    fdcAdvance s = writeTrailer s := by
  simp only [fdcAdvance, ho, commandAdvance, hc, writeSectorAdvance]

theorem fdcAdvance_readAddress_prepare (hc : s.fdc.command = .readAddress) (ho : s.fdc.opStatus = .prepare) :
    fdcAdvance s = readAddressPrepare s := by
  simp only [fdcAdvance, ho, commandAdvance, hc, readAddressAdvance]

theorem fdcAdvance_readAddress_delay (hc : s.fdc.command = .readAddress) (ho : s.fdc.opStatus = .delay) :
    fdcAdvance s = readAddressDelay s := by
  simp only [fdcAdvance, ho, commandAdvance, hc, readAddressAdvance]

theorem fdcAdvance_readAddress_seekingIDAM (hc : s.fdc.command = .readAddress) (ho : s.fdc.opStatus = .seekingIDAM) :
    fdcAdvance s = seekingIDAM s := by
  simp only [fdcAdvance, ho, commandAdvance, hc, readAddressAdvance]

theorem fdcAdvance_readAddress_readingAddressData (hc : s.fdc.command = .readAddress) (ho : s.fdc.opStatus = .readingAddressData) :
    fdcAdvance s = readAddressByte s := by
  simp only [fdcAdvance, ho, commandAdvance, hc, readAddressAdvance]

theorem fdcAdvance_readTrack_prepare (hc : s.fdc.command = .readTrack) (ho : s.fdc.opStatus = .prepare) :
    fdcAdvance s = readTrackPrepare s := by
  simp only [fdcAdvance, ho, commandAdvance, hc, readTrackAdvance]

theorem fdcAdvance_readTrack_delay (hc : s.fdc.command = .readTrack) (ho : s.fdc.opStatus = .delay) :
    fdcAdvance s = trackDelay s := by
  simp only [fdcAdvance, ho, commandAdvance, hc, readTrackAdvance]

theorem fdcAdvance_readTrack_seekingIndexHole (hc : s.fdc.command = .readTrack) (ho : s.fdc.opStatus = .seekingIndexHole) :
    fdcAdvance s = readTrackIndexHole s := by
  simp only [fdcAdvance, ho, commandAdvance, hc, readTrackAdvance]

theorem fdcAdvance_readTrack_readingData (hc : s.fdc.command = .readTrack) (ho : s.fdc.opStatus = .readingData) :
    fdcAdvance s = readTrackData s := by
  simp only [fdcAdvance, ho, commandAdvance, hc, readTrackAdvance]

theorem fdcAdvance_writeTrack_prepare (hc : s.fdc.command = .writeTrack) (ho : s.fdc.opStatus = .prepare) :
    fdcAdvance s = writeTrackPrepare s := by
  simp only [fdcAdvance, ho, commandAdvance, hc, writeTrackAdvance]

theorem fdcAdvance_writeTrack_delay (hc : s.fdc.command = .writeTrack) (ho : s.fdc.opStatus = .delay) :
    fdcAdvance s = trackDelay s := by
  simp only [fdcAdvance, ho, commandAdvance, hc, writeTrackAdvance]

theorem fdcAdvance_writeTrack_seekingIndexHole (hc : s.fdc.command = .writeTrack) (ho : s.fdc.opStatus = .seekingIndexHole) :
    fdcAdvance s = writeTrackIndexHole s := by
  simp only [fdcAdvance, ho, commandAdvance, hc, writeTrackAdvance]

theorem fdcAdvance_writeTrack_writingData (hc : s.fdc.command = .writeTrack) (ho : s.fdc.opStatus = .writingData) :
    fdcAdvance s = writeTrackData s := by
  simp only [fdcAdvance, ho, commandAdvance, hc, writeTrackAdvance]

theorem fdcAdvance_writeTrack_writeCRCLow (hc : s.fdc.command = .writeTrack) (ho : s.fdc.opStatus = .writeCRCLow) :
    fdcAdvance s = writeTrackCRCLow s := by
  simp only [fdcAdvance, ho, commandAdvance, hc, writeTrackAdvance]

end

end Sys2Proof.Machine
end

