-- ==== Sys2Proof/Tests/Slice0.lean ====
section
/-! SUPPORT. Tests: ill-formed terms that WellFormed refuses, command bytes written out from 30_encoding.md, single steps with
the results of spec/95_test_vectors.md, and for every statement with hypotheses a state and operands that meet them. -/

namespace Sys2Proof.Tests

open Sys2Proof.Machine Sys2Proof.Claims

/-! ## WellFormed refuses what is ill formed -/

theorem test_wf_params_defaults : Config.defaults.wf = true := by decide

theorem test_wf_params_no_ticks : Config.Params.wf { Config.defaults with tps := 4 } = false := by decide

theorem test_wf_params_pulse_short : Config.Params.wf { Config.defaults with loPulsePos := 0, loPulseNeg := 0 } = false := by decide

theorem test_wf_params_pulse_long :
    Config.Params.wf { Config.defaults with loPulsePos := 600000, loPulseNeg := 600000 } = false := by decide

theorem test_wf_params_port_taken : Config.Params.wf { Config.defaults with cassettePort := 0xF0#8 } = false := by decide

theorem test_wf_memory_falling : Memory.wf { size := 8, cells := [(3, 1#8), (2, 1#8)] } = false := by decide

theorem test_wf_memory_repeat : Memory.wf { size := 8, cells := [(3, 1#8), (3, 2#8)] } = false := by decide

theorem test_wf_memory_outside : Memory.wf { size := 8, cells := [(8, 1#8)] } = false := by decide

theorem test_wf_memory_unlisted_value : Memory.wf { size := 8, cells := [(3, 0#8)] } = false := by decide

theorem test_wf_track_short : Track.wf { data := { size := 1, cells := [] }, idam := [] } = false := by decide

theorem test_wf_track_mark_outside : Track.wf { data := { size := 4, cells := [] }, idam := [4] } = false := by decide

theorem test_wf_track_marks_falling : Track.wf { data := { size := 4, cells := [] }, idam := [2, 1] } = false := by decide

theorem test_wf_image_track_twice :
    FloppyImage.wf { tracks := [⟨0, false, ⟨⟨4, []⟩, []⟩⟩, ⟨0, false, ⟨⟨6, []⟩, []⟩⟩], changed := false } = false := by
  decide

theorem test_wf_input_no_tick : Input.wf (.advance 0) = false := by decide

theorem test_wf_input_no_tape : Input.wf (.insertTape []) = false := by decide

theorem test_wf_input_bad_disk :
    Input.wf (.mediaChange .d0 (some { tracks := [⟨0, false, ⟨⟨1, []⟩, []⟩⟩], changed := false }) false) = false := by
  decide

/-! ## Decode: one byte of every row, written out from R91 to R98 -/

/-- `0000 h V r r` with h, V = 1, 0 and r = 10. -/
theorem test_decode_restore : decode [0b00001010#8] = .ok (.restore true false 2#2, []) := by decide

/-- `0001 h V r r` with h, V = 0, 1 and r = 01. -/
theorem test_decode_seek : decode [0b00010101#8] = .ok (.seek false true 1#2, []) := by decide

/-- `001 u h V r r` with u, h, V = 1, 0, 0 and r = 11. -/
theorem test_decode_step : decode [0b00110011#8] = .ok (.step true false false 3#2, []) := by decide

/-- `010 u h V r r` with u, h, V = 0, 1, 0 and r = 00. -/
theorem test_decode_stepIn : decode [0b01001000#8] = .ok (.stepIn false true false 0#2, []) := by decide

/-- `011 u h V r r` with u, h, V = 0, 0, 1 and r = 10. -/
theorem test_decode_stepOut : decode [0b01100110#8] = .ok (.stepOut false false true 2#2, []) := by decide

/-- `100 m S E C x` with m and C set. -/
theorem test_decode_rdsec : decode [0b10010010#8] = .ok (.rdsec true false false true false, []) := by decide

/-- `101 m S E C a0` with S and a0 set. -/
theorem test_decode_wrsec : decode [0b10101001#8] = .ok (.wrsec false true false false true, []) := by decide

/-- `1100 x E x x` with E set and the lowest bit 1. -/
theorem test_decode_rdaddr : decode [0b11000101#8] = .ok (.rdaddr false true 1#2, []) := by decide

theorem test_decode_reset : decode [0b11010000#8] = .ok (.reset, []) := by decide

theorem test_decode_forceintD1 : decode [0b11010001#8] = .ok (.forceintD1, []) := by decide

theorem test_decode_forceintD2 : decode [0b11010011#8] = .ok (.forceintD2 true, []) := by decide

theorem test_decode_forceintD4 : decode [0b11010110#8] = .ok (.forceintD4 2#2, []) := by decide

theorem test_decode_forceintimm : decode [0b11011000#8] = .ok (.forceintimm, []) := by decide

theorem test_decode_forceintD9 : decode [0b11011001#8] = .ok (.forceintD9, []) := by decide

theorem test_decode_forceintDA : decode [0b11011010#8] = .ok (.forceintDA false, []) := by decide

theorem test_decode_forceintDC : decode [0b11011111#8] = .ok (.forceintDC 3#2, []) := by decide

/-- `1110 x E x x` with bit 3 and E set. -/
theorem test_decode_rdtrk : decode [0b11101100#8] = .ok (.rdtrk true true 0#2, []) := by decide

/-- `1111 x E x x` with the two lowest bits set. -/
theorem test_decode_wrtrk : decode [0b11110011#8] = .ok (.wrtrk false false 3#2, []) := by decide

theorem test_decode_nothing : decode [] = .error .noByte := by decide

/-! ## Small states -/

/-- The state a step answers, or the reset state where it stops. -/
def stateOf (o : Host.Outcome State Fault Refusal) : State :=
  match o with
  | .next t => t
  | _ => State.reset

/-- The step answers a next state. -/
def isNext (o : Host.Outcome State Fault Refusal) : Bool :=
  match o with
  | .next _ => true
  | _ => false

/-- Reset, then drive 0 selected in double density at tick 1,000,000 with the motor on and no disk. -/
def idleState : State :=
  { State.reset with
    tickCount := 1000000
    fdc := { Fdc.reset Config.defaults with currentDrive := some .d0, doubleDensity := true, motorOn := true } }

/-- `idleState` with drive 0 on physical track `n`. -/
def onTrack (n : Nat) : State :=
  { idleState with drives := { Drives.reset with d0 := { DriveState.reset with physicalTrack := n } } }

/-- A track of 40 bytes: three 0xA1, an IDAM at 4, a header for track 5 and sector 1, a DAM at 20 and a deleted one at 30. -/
def smallTrack : Track :=
  { data := Memory.ofBytes
      ([0x4E#8, 0xA1#8, 0xA1#8, 0xA1#8, 0xFE#8, 0x05#8, 0x00#8, 0x01#8, 0x00#8, 0x56#8, 0x68#8] ++
        List.replicate 9 0x4E#8 ++ [0xFB#8] ++ List.replicate 9 0x4E#8 ++ [0xF8#8] ++ List.replicate 9 0x4E#8)
    idam := [4] }

/-- The disk with `smallTrack` on track 5, side 0. -/
def smallDisk : FloppyImage := { tracks := [{ cylinder := 5, sideOne := false, track := smallTrack }], changed := false }

/-- A busy FDC in state `st` of command `c`, polling, with the head at byte `k` of `smallTrack`; its request is due. -/
def busyAt (c : Command) (st : OpStatus) (k : Nat) : State :=
  { idleState with
    tickCount := k * 10137600 + 20000
    drives := { Drives.reset with d0 := { physicalTrack := 5, writeProtected := false, floppy := some smallDisk } }
    sched :=
      { Scheduler.reset with
        nextSeq := 1
        command :=
          { active := true, trigger := k * 10137600 + 20000, seq := 0, basis := .ticks, delay := 0, callback := .poll } }
    fdc :=
      { idleState.fdc with
        command := c, opStatus := st, busy := true, isPolling := true, nextCallback := some .fdcAdvance
        targetDataIndex := k, trackRegister := 0x05#8, sectorRegister := 0x01#8, sectorLength := 128, bytesToWrite := 1
        indexCheckStartTick := 10 } }

/-- `s` with `f` applied to its FDC. -/
def withFdc (f : Fdc → Fdc) (s : State) : State := { s with fdc := f s.fdc }

/-! ## Single steps against the vectors of spec/95 -/

/-- T-S1: RESTORE 0x03 from track 40. -/
theorem test_restore_first_step :
    let t := stateOf (exec (.restore false false 3#2) { onTrack 40 with fdc.trackRegister := 40#8 })
    t.fdc.trackRegister = 0xFE#8 ∧ t.fdc.dataRegister = 0x00#8 ∧ t.drives.d0.physicalTrack = 39 ∧
      t.fdc.opStatus = .step ∧ t.fdc.busy = true ∧ t.fdc.lastStepDirUp = false ∧
      t.sched.command.trigger = 1000000 + 60825600 := by decide

/-- P1 row 4: RESTORE on track 0 ends the stepping at once. -/
theorem test_restore_on_track_zero :
    let t := stateOf (exec (.restore false false 0#2) (onTrack 0))
    t.fdc.trackRegister = 0x00#8 ∧ t.drives.d0.physicalTrack = 0 ∧ t.fdc.opStatus = .checkVerify ∧
      t.sched.command.trigger = 1000000 + 12165120 ∧ t.outputs = [] := by decide

/-- T-CLK-7: SEEK with the target reached at tick 1,000. -/
theorem test_seek_no_step :
    let t := stateOf (exec (.seek false false 0#2) { State.reset with tickCount := 1000 })
    t.fdc.opStatus = .nmi ∧ t.sched.command.trigger = 60887425 ∧ t.sched.command.seq = 0 := by decide

/-- P1 row 8: SEEK from 0 to 5 takes its first step up. -/
theorem test_seek_first_step :
    let t := stateOf (exec (.seek false false 0#2) { onTrack 0 with fdc.dataRegister := 5#8 })
    t.fdc.trackRegister = 0x01#8 ∧ t.drives.d0.physicalTrack = 1 ∧ t.fdc.lastStepDirUp = true ∧
      t.outputs = [.trackStep] := by decide

/-- R294, R287: STEP up at track 80 with `u` counts the register and leaves the head (T-B2). -/
theorem test_step_clamps_at_80 :
    let t := stateOf (exec (.step true false false 0#2) { onTrack 80 with fdc.trackRegister := 0xFF#8 })
    t.fdc.trackRegister = 0x00#8 ∧ t.drives.d0.physicalTrack = 80 ∧ t.outputs = [] := by decide

/-- P2 row 7c: STEPIN.u.V from track 4. -/
theorem test_stepIn_counts :
    let t := stateOf (exec (.stepIn true false true 0#2) { onTrack 4 with tickCount := 100000000, fdc.trackRegister := 4#8 })
    t.fdc.trackRegister = 5#8 ∧ t.drives.d0.physicalTrack = 5 ∧ t.sched.command.trigger = 112165120 ∧
      t.fdc.verify = true := by decide

/-- P2 row 7a: STEPOUT.u from track 5. -/
theorem test_stepOut_counts :
    let t := stateOf (exec (.stepOut true false false 0#2) { onTrack 5 with tickCount := 2000000, fdc.trackRegister := 5#8 })
    t.fdc.trackRegister = 4#8 ∧ t.drives.d0.physicalTrack = 4 ∧ t.sched.command.trigger = 14165120 := by decide

/-- T-CLK-5 and T-CLK-3: RDSEC at tick 1,000,000 in double density waits for index 31 at tick 1,015,677. -/
theorem test_rdsec_waits :
    let t := stateOf (exec (.rdsec false false false false false) idleState)
    t.fdc.opStatus = .seekingIDAM ∧ t.fdc.indexCheckStartTick = 10 ∧ t.fdc.targetDataIndex = 31 ∧
      t.sched.command.trigger = 1015677 ∧ t.sched.command.callback = .poll := by decide

/-- T-CLK-5 in single density: index 16 at tick 1,048,117. -/
theorem test_rdsec_waits_single :
    let t := stateOf (exec (.rdsec false false false false false) { idleState with fdc.doubleDensity := false })
    t.fdc.targetDataIndex = 16 ∧ t.sched.command.trigger = 1048117 := by decide

/-- T-S3: WRSEC on a protected drive, and its status byte. -/
theorem test_wrsec_protected :
    let t := stateOf (exec (.wrsec false false false false false) { idleState with drives.d0.writeProtected := true })
    t.fdc.opStatus = .nmi ∧ t.sched.command.trigger = 1000000 + 60825 ∧ statusByte t = 0x41#8 := by decide

/-- T-T3-2: RDADDR with `E` delays 101,376,000 ticks. -/
theorem test_rdaddr_delay :
    let t := stateOf (exec (.rdaddr false true 0#2) idleState)
    t.fdc.opStatus = .delay ∧ t.sched.command.trigger = 1000000 + 101376000 := by decide

/-- T-T3-3: RDTRK awaits the index hole. -/
theorem test_rdtrk_waits :
    let t := stateOf (exec (.rdtrk false false 0#2) idleState)
    t.fdc.opStatus = .seekingIndexHole ∧ t.fdc.indexCheckStartTick = 10 := by decide

/-- T-T3-4: WRTRK raises the first DRQ, and its status byte is 0x03. -/
theorem test_wrtrk_drq :
    let t := stateOf (exec (.wrtrk false false 0#2) idleState)
    t.fdc.opStatus = .seekingIndexHole ∧ statusByte t = 0x03#8 := by decide

/-- T-S4: FORCEINTIMM during a search. -/
theorem test_forceintimm_aborts :
    let t := stateOf (exec .forceintimm (stateOf (exec (.rdsec false false false false false) idleState)))
    t.fdc.busy = false ∧ t.fdc.drq = false ∧ t.latches.fdcNmi = true ∧ t.fdc.opStatus = .opDone ∧
      t.fdc.command = .forceInterruptImmediate ∧ t.sched.command.active = false ∧ t.fdc.isPolling = false := by decide

/-- T-T4-2: RESET latches nothing. -/
theorem test_reset_aborts :
    let t := stateOf (exec .reset (stateOf (exec (.rdsec false false false false false) idleState)))
    t.fdc.busy = false ∧ t.latches.fdcNmi = false ∧ t.fdc.command = .reset ∧ t.sched.command.active = false := by decide

/-- T-T4-3: FORCEINT of every row, idle, latches at once. -/
theorem test_forceint_latches :
    [Instr.forceintD1, .forceintD2 true, .forceintD4 0#2, .forceintD9, .forceintDA false, .forceintDC 3#2].all
      (fun i =>
        let t := stateOf (exec i idleState)
        t.latches.fdcNmi && (t.fdc.command == .forceInterrupt) && (t.fdc.commandRegister == encodeByte i)) = true := by
  decide

/-- T-PRT-1: the reset state's port bytes. -/
theorem test_reset_status :
    (stateOf (portIn 0xF0#8 State.reset)).outputs = [.busRead 0xF0#8 0x80#8] ∧
      (stateOf (portIn 0xFF#8 State.reset)).outputs = [.busRead 0xFF#8 0x00#8] := by decide

/-- T-PRT-4: write protect, head loaded, track 0 and the index show live. -/
theorem test_status_live :
    statusByte { idleState with tickCount := 405505000, drives.d0.writeProtected := true } = 0x66#8 ∧
      statusByte { idleState with tickCount := 409559040, drives.d0.writeProtected := true } = 0x64#8 := by decide

/-- T-PRT-3: the lowest set bit selects. -/
theorem test_select_lowest :
    (stateOf (portOut 0xF4#8 0x0A#8 State.reset)).fdc.currentDrive = some .d1 ∧
      (stateOf (portOut 0xF4#8 0xF0#8 State.reset)).fdc.currentDrive = none ∧
      (stateOf (portOut 0xF4#8 0x01#8 State.reset)).sched.motorOn.trigger = 20275 := by decide

set_option maxRecDepth 4000 in
/-- T-CRC-10 and T-CRC-13. -/
theorem test_crc :
    crcByte 0xCDB4#16 0xFE#8 = 0xB230#16 ∧ crcByte 0xFFFF#16 0xFE#8 = 0xEF21#16 ∧
      crcBytes 0xCDB4#16 [0xFE#8, 0x05#8, 0x00#8, 0x01#8, 0x00#8] = 0x5668#16 :=
  ⟨by decide, by decide, by decide⟩

/-- T-CAS-8: the first callback of the bits of 0xAA at high speed, from tick 1,000. -/
theorem test_tape_first_edge :
    let t := stateOf (setMotorSignal true
      { State.reset with
        tickCount := 1000, cas := { State.reset.cas with data := Memory.ofBytes [0xAA#8, 0xC0#8], motorEngaged := true } })
    t.latches.cassetteRisingEdge = true ∧ t.sched.read.trigger = 379000 ∧ t.cas.bitCursor = 6 ∧
      cassettePortByte t.cas = 0x81#8 := by decide

/-- The head passes the IDAM of `smallTrack` and starts the header CRC (T-CRC-10). -/
theorem test_fire_idam :
    let t := stateOf (fire (busyAt .readSector .seekingIDAM 4))
    t.fdc.opStatus = .readingAddressData ∧ t.fdc.crc = 0xB230#16 ∧ t.fdc.targetDataIndex = 5 := by decide

/-- A word placed as the next command runs: RESET. -/
theorem test_withFetchWord :
    step (State.reset.withFetchWord 8 0xD0) = exec .reset State.reset := by rfl

/-! ## States and operands that meet the hypotheses of the statements -/

theorem witness_DecodeEncodeAgree : (Instr.rdsec true false true false true).wellFormed = true := by decide

theorem witness_StepRunsDecodedCommand :
    { idleState with inputs := [.portOut 0xF0#8 0x80#8, .fire] }.inputs = .portOut 0xF0#8 0x80#8 :: [.fire] ∧
      decode [0x80#8] = .ok (.rdsec false false false false false, []) ∧
      (Instr.rdsec false false false false false).wellFormed = true ∧
      decodeTableWord 8 0x80 = some (.rdsec false false false false false) := by decide

theorem witness_CommandsTurnedAway :
    { idleState with fdc.enabled := false }.fdc.enabled = false ∧
      (busyAt .seek .step 0).fdc.enabled = true ∧ (busyAt .seek .step 0).fdc.busy = true ∧
      (encodeByte (.wrtrk true true 3#2)).extractLsb' 4 4 ≠ 0xD#4 := by decide

/-- The hypotheses of RestoreStepsDown, StepCommandsStepOnce and the command starts, and the drive unprotected. -/
theorem witness_Ready : Ready idleState ∧ HeadOk idleState ∧ driveWP idleState = false := by decide

/-- The head is also fine with a disk and in single density on an even track. -/
theorem witness_HeadOk :
    HeadOk (busyAt .readSector .readingData 39) ∧ HeadOk { idleState with fdc.doubleDensity := false } := by decide

theorem witness_SeekStepsToTarget :
    idleState.fdc.dataRegister = idleState.fdc.trackRegister ∧ Ready { idleState with fdc.dataRegister := 80#8 } ∧
      { idleState with fdc.dataRegister := 80#8 }.fdc.dataRegister ≠ 0x00#8 := by decide

theorem witness_ProtectedDriveAbortsWrites :
    let s := { idleState with drives.d0.writeProtected := true }
    Ready s ∧ s.fdc.currentDrive = some .d0 ∧ (s.drives.get .d0).writeProtected = true ∧
      State.reset.fdc.currentDrive = none := by decide

theorem witness_ForceInterrupt : idleState.fdc.enabled = true ∧ (busyAt .writeSector .writeDAM 3).fdc.enabled = true := by
  decide

theorem witness_CommandFrame : isNext (exec (.stepOut true true true 3#2) (onTrack 1)) = true := by decide

theorem witness_NmiStateCompletes : (busyAt .readAddress .nmi 0).fdc.opStatus = .nmi := by decide

theorem witness_StepStatePasses :
    let s := busyAt .restore .step 0
    s.fdc.opStatus = .step ∧ isTypeI s.fdc.command = true ∧ s.fdc.command ≠ .step ∧
      s.fdc.dataRegister ≠ s.fdc.trackRegister ∧
      { s with fdc.dataRegister := 5#8 }.fdc.dataRegister = s.fdc.trackRegister ∧
      (busyAt .step .step 0).fdc.command = .step ∧ (busyAt .step .checkVerify 0).fdc.opStatus = .checkVerify ∧
      isTypeI (busyAt .step .checkVerify 0).fdc.command = true := by decide

theorem witness_DelayEndsInSearch :
    HeadOk (busyAt .readAddress .delay 7) ∧ (busyAt .readAddress .delay 7).fdc.opStatus = .delay ∧
      (busyAt .readAddress .delay 7).fdc.command ∈ [.readSector, .writeSector, .readAddress] ∧
      HeadOk (busyAt .writeTrack .delay 7) ∧
      (busyAt .writeTrack .delay 7).fdc.command ∈ [.readTrack, .writeTrack] := by decide

/-- The three clauses: five revolutions, with the count at its boundary; an IDAM under the head; none under it. -/
theorem witness_IdamSearch :
    searches Command.readSector = true ∧
      5 ≤ indexesFound { busyAt .readSector .seekingIDAM 4 with tickCount := 2027520010 } ∧
      indexesFound { busyAt .readSector .seekingIDAM 4 with tickCount := 2027520009 } < 5 ∧
      HeadOk (busyAt .readSector .seekingIDAM 4) ∧ hasIdam (busyAt .readSector .seekingIDAM 4) 4 = true ∧
      trackDataIndex (busyAt .readSector .seekingIDAM 4) = 4 ∧
      hasIdam (busyAt .readSector .seekingIDAM 5) (trackDataIndex (busyAt .readSector .seekingIDAM 5)) = false := by
  decide

theorem witness_IdamUnderHead : IdamUnderHead (busyAt .readSector .seekingIDAM 4) := ⟨smallTrack, by decide, by decide⟩

theorem witness_HeaderBytesStored :
    let s := withFdc (fun f => { f with readAddressIndex := 4 }) (busyAt .readAddress .readingAddressData 9)
    searches s.fdc.command = true ∧ s.fdc.opStatus = .readingAddressData ∧ HeadOk s ∧ s.fdc.readAddressIndex < 5 := by
  decide

/-- `busyAt` at the sixth header byte with the first five of `smallTrack` stored. -/
def atSixth (c : Command) : State :=
  withFdc
    (fun f => { f with
      readAddressIndex := 5
      readAddressData := { track := 5#8, side := 0#8, sector := 1#8, size := 0#8, crcHi := 0x56#8, crcLo := 0#8 }
      crcCalc := 0x5668#16 })
    (busyAt c .readingAddressData 10)

/-- A wanted header with a good CRC in both commands; a bad CRC; another sector. -/
theorem witness_TypeTwoHeaderDecides :
    let s := atSixth .readSector
    HeadOk s ∧ s.fdc.opStatus = .readingAddressData ∧ s.fdc.readAddressIndex = 5 ∧
      s.fdc.readAddressData.track = s.fdc.trackRegister ∧ s.fdc.readAddressData.sector = s.fdc.sectorRegister ∧
      s.fdc.sideSelectVerify = false ∧ s.fdc.readAddressData.crcHi ++ headByte s = s.fdc.crcCalc ∧
      s.fdc.command = .readSector ∧ (atSixth .writeSector).fdc.command = .writeSector ∧
      s.fdc.readAddressData.crcHi ++ headByte s ≠ 0x5669#16 ∧
      s.fdc.readAddressData.sector ≠ 2#8 := by decide

/-- With `side_select_verify` set: the header's side 0 is the expected one, and is not; the states still meet the
hypotheses. -/
theorem witness_TypeTwoHeaderDecides_sides :
    let s := withFdc (fun f => { f with sideSelectVerify := true }) (atSixth .readSector)
    let t := withFdc (fun f => { f with sideOneExpected := true }) s
    HeadOk s ∧ s.fdc.sideSelectVerify = true ∧ (s.fdc.readAddressData.side ≠ 0x00#8 ↔ s.fdc.sideOneExpected = true) ∧
      HeadOk t ∧ t.fdc.opStatus = .readingAddressData ∧ t.fdc.readAddressIndex = 5 ∧
      ¬ (t.fdc.readAddressData.side ≠ 0x00#8 ↔ t.fdc.sideOneExpected = true) := by decide

theorem witness_VerifyAndReadAddressEnd :
    isTypeI (atSixth .seek).fdc.command = true ∧ HeadOk (atSixth .seek) ∧
      (atSixth .seek).fdc.readAddressData.track = (atSixth .seek).fdc.trackRegister ∧
      (atSixth .seek).fdc.readAddressData.track ≠ 6#8 ∧ (atSixth .readAddress).fdc.command = .readAddress := by decide

/-- The head on a normal mark, on a deleted one, and on another byte at both sides of the window's end. -/
theorem witness_DamSearch :
    headByte (busyAt .readSector .seekingDAM 20) = 0xFB#8 ∧ headByte (busyAt .readSector .seekingDAM 30) = 0xF8#8 ∧
      headByte (busyAt .readSector .seekingDAM 21) = 0x4E#8 ∧ HeadOk (busyAt .readSector .seekingDAM 21) ∧
      (busyAt .readSector .seekingDAM 21).fdc.doubleDensity = true ∧
      43 ≤ (withFdc (fun f => { f with damBytesChecked := 42 }) idleState).fdc.damBytesChecked + 1 ∧
      (withFdc (fun f => { f with damBytesChecked := 41 }) idleState).fdc.damBytesChecked + 1 < 43 := by decide

theorem witness_SectorBytesDelivered :
    let s := withFdc (fun f => { f with bytesRead := 127 }) (busyAt .readSector .readingData 21)
    s.fdc.command = .readSector ∧ s.fdc.opStatus = .readingData ∧ HeadOk s ∧
      s.fdc.bytesRead + 1 = s.fdc.sectorLength ∧ (busyAt .readSector .readingData 21).fdc.bytesRead + 1 ≠ 128 := by decide

/-- The stored CRC good and bad, with and without another record to come. -/
theorem witness_DataCrcChecked :
    let s := withFdc (fun f => { f with crcHigh := 0x12#8, crcCalc := 0x124E#16 }) (busyAt .readSector .readCRCLow 21)
    HeadOk s ∧ s.fdc.crcHigh ++ headByte s = s.fdc.crcCalc ∧ s.fdc.crcHigh ++ headByte s ≠ 0x1234#16 ∧
      s.fdc.multipleRecords = false ∧
      (withFdc (fun f => { f with multipleRecords := true }) s).fdc.multipleRecords = true ∧
      (busyAt .readSector .readCRCHigh 21).fdc.opStatus = .readCRCHigh := by decide

theorem witness_media : MediaInv (busyAt .writeSector .writeFiller 21) := fun d => by cases d <;> decide

/-- `busyAt` differs from state to state in the FDC only, so its disks stay well formed. -/
theorem witness_media_at (c : Command) (st : OpStatus) (k : Nat) : MediaInv (busyAt c st k) := fun d => by
  cases d <;> exact witness_media _

/-- The writing states of WriteSector: the last byte and one before it, in either density. -/
theorem witness_WriteSectorStates :
    let s := busyAt .writeSector .writeFiller 21
    s.fdc.command = .writeSector ∧ HeadOk s ∧ s.fdc.bytesToWrite = 1 ∧ s.fdc.opStatus = .writeFiller ∧
      1 ≤ (withFdc (fun f => { f with bytesToWrite := 2 }) s).fdc.bytesToWrite ∧
      (busyAt .writeSector .writeSync 0).fdc.opStatus = .writeSync ∧
      HeadOk (withFdc (fun f => { f with doubleDensity := false }) s) ∧
      (busyAt .writeSector .writeDAM 0).fdc.opStatus = .writeDAM ∧
      (busyAt .writeSector .writeTrailer 39).fdc.opStatus = .writeTrailer := by decide

theorem witness_WriteSectorTakesBytes :
    (busyAt .writeSector .drqCheck 0).fdc.drq = false ∧
      (withFdc (fun f => { f with drq := true }) (busyAt .writeSector .drqCheck 0)).fdc.drq = true ∧
      HeadOk (busyAt .writeSector .writingData 5) ∧ 1 ≤ (busyAt .writeSector .writingData 5).fdc.bytesToWrite := by decide

/-- Before and at the index, whose count changes at tick 405,504,010. -/
theorem witness_ReadTrackStreams :
    indexesFound { busyAt .readTrack .seekingIndexHole 0 with tickCount := 405504009 } = 0 ∧
      1 ≤ indexesFound { busyAt .readTrack .seekingIndexHole 0 with tickCount := 405504010 } ∧
      HeadOk { busyAt .readTrack .seekingIndexHole 0 with tickCount := 405504010 } ∧
      HeadOk (busyAt .readTrack .readingData 3) ∧ indexesFound (busyAt .readTrack .readingData 3) = 0 := by decide

/-- 0xF7 and another byte, before and at the index, in WriteTrack. -/
theorem witness_WriteTrackTranslates :
    let s := withFdc (fun f => { f with dataRegister := 0xF7#8 }) (busyAt .writeTrack .writingData 4)
    HeadOk s ∧ indexesFound s = 0 ∧ s.fdc.drq = false ∧ s.fdc.dataRegister = 0xF7#8 ∧
      (busyAt .writeTrack .writingData 4).fdc.dataRegister ≠ 0xF7#8 ∧
      1 ≤ indexesFound { s with tickCount := 405504010 } ∧
      HeadOk { busyAt .writeTrack .seekingIndexHole 0 with tickCount := 405504010 } ∧
      indexesFound (busyAt .writeTrack .writeCRCLow 5) = 0 := by decide

/-- The command request due and the only one, and a state with none due. -/
theorem witness_FireTakesEarliest :
    let s := busyAt .readSector .seekingIDAM 4
    (s.sched.get .command).active = true ∧ (s.sched.get .command).trigger ≤ s.tickCount ∧
      nextDue s = some .command ∧ nextDue idleState = none ∧ (idleState.sched.get .read).active = false := by decide

theorem witness_FireTakesEarliest_others (p : RequestId) (h : p ≠ .command) :
    ((busyAt .readSector .seekingIDAM 4).sched.get p).active = false := by cases p <;> first | rfl | exact absurd rfl h

theorem witness_ExpiredRequestNeverFires :
    (Scheduler.reset.get .motorOff).active = false ∧ (idleRequest .poll).active = false := by decide

/-- `Advance` up to the trigger and one tick past it. -/
theorem witness_AdvanceExactlyWhenEnabled :
    let s := { busyAt .readSector .seekingIDAM 4 with tickCount := 1000 }
    s.tickCount + 40569400 < 2 ^ 64 ∧ advanceEnabled s 40569400 = true ∧ advanceEnabled s 40569401 = false ∧
      advanceEnabled s 0 = false := by decide

/-- With a lateness of 5 ticks: one tick before the trigger up to the lateness and one tick past it; a due request stops every
`Advance` (U27). -/
theorem witness_AdvanceExactlyWhenEnabled_late :
    let s := { busyAt .readSector .seekingIDAM 4 with params := { Config.defaults with maxLateness := 5 } }
    let t := { s with tickCount := s.tickCount - 1 }
    due t .command = false ∧ advanceEnabled t 6 = true ∧ advanceEnabled t 7 = false ∧ due s .command = true ∧
      advanceEnabled s 1 = false := by decide

/-- R6 and R8: the head-load delay, the wait of the `delay` flag by default. -/
theorem test_head_load_delay : Config.headLoadDelayUs = 50000 ∧ Config.defaults.delayFlagUs = Config.headLoadDelayUs := by
  decide

/-- Steps that answer a next state: an idle one, and a platform reset. -/
theorem witness_step :
    isNext (step idleState) = true ∧ resetsNext idleState = false ∧
      isNext (step { idleState with inputs := [.platformReset] }) = true ∧
      resetsNext { idleState with inputs := [.platformReset] } = true := by decide

theorem witness_IndexCountReaches : 5 ≤ idleState.params.tps ∧ 1 ≤ 1 := by decide

/-- A byte wait on tracks of 12,500 and of 40 bytes; a bound track, no track, and no drive; single
density. -/
theorem witness_ByteWaitLandsOnTarget :
    idleState.params.tps = 2027520000 ∧ trackLen idleState = 12500 ∧ isNext (waitBytes 1 .readingData idleState) = true ∧
      isNext (waitBytes 8 .drqCheck (busyAt .writeSector .readingAddressData 39)) = true ∧
      boundTrack (busyAt .readSector .seekingIDAM 4) = some smallTrack ∧ boundTrack idleState = none ∧
      State.reset.fdc.currentDrive = none ∧ HeadOk idleState ∧
      HeadOk (withFdc (fun f => { f with doubleDensity := false }) idleState) := by decide

theorem witness_enabled :
    idleState.fdc.enabled = true ∧ (withFdc (fun f => { f with enabled := false }) idleState).fdc.enabled = false := by
  decide

/-- A tape being read: the cursor inside a byte, standing in the first phase of a 1 bit. -/
def readingTape : State :=
  { State.reset with
    tickCount := 379000
    cas := { State.reset.cas with
      data := Memory.ofBytes [0xAA#8, 0xC0#8], isBlank := false, bitCursor := 6
      motorEngaged := true, motorOnSignal := true, motorOn := true
      transition := some
        { phase := .hiPos, bit := true, phaseEnd := 379000, before := .zero, after := .positive, lastNonZero := .positive
          flipFlop := true, clearPending := true } } }

theorem witness_CassettePortRead :
    State.reset.params.wf = true ∧ State.reset.cas.transition = none ∧ readingTape.params.wf = true ∧
      readingTape.cas.transition.isSome = true := by decide

/-- The motor about to start for recording and for reading, about to stop, and unchanged. -/
theorem witness_MotorFollowsSignals :
    let start := { State.reset.cas with motorEngaged := true, motorOnSignal := true }
    (start.motorEngaged && start.motorOnSignal) = true ∧ start.motorOn = false ∧ start.recordInvoked = false ∧
      start.byteCursor < start.data.size ∧ { start with recordInvoked := true }.recordInvoked = true ∧
      ({ readingTape.cas with motorOnSignal := false }.motorEngaged && false) = false ∧ readingTape.cas.motorOn = true ∧
      (State.reset.cas.motorEngaged && State.reset.cas.motorOnSignal) = State.reset.cas.motorOn := by decide

/-- The deck with the motor engaged and not, a tape of one byte and one of the greatest length, the motor signal off. -/
theorem witness_DeckActions :
    readingTape.cas.motorEngaged = true ∧ State.reset.cas.motorEngaged = false ∧ 1 ≤ [0x55#8].length ∧
      (List.replicate 73728 0x00#8).length ≤ 73728 ∧ State.reset.cas.motorOnSignal = false ∧
      State.reset.cas.motorOn = false := by
  refine ⟨rfl, rfl, by decide, ?_, rfl, rfl⟩
  rw [List.length_replicate]

/-- The motor signal on with the motor released, engaged to read and to write, and running; the signal off. -/
theorem witness_DeckActions_signal :
    let released := { State.reset.cas with motorOnSignal := true }
    let ready := { State.reset.cas with motorEngaged := true }
    released.motorEngaged = false ∧ released.motorOn = false ∧ released.byteCursor < released.data.size ∧
      ready.motorOn = false ∧ ready.recordInvoked = false ∧ ready.byteCursor < ready.data.size ∧
      { ready with recordInvoked := true }.recordInvoked = true ∧ readingTape.cas.motorEngaged = readingTape.cas.motorOn ∧
      readingTape.cas.motorOn = true ∧ State.reset.cas.motorOn = false := by decide

/-- `readingTape` in phase `ph` of a bit `b`, with the cursor at bit `j` of its byte `i`. -/
def readingAt (i j : Nat) (ph : Phase) (b : Bool) : State :=
  { readingTape with
    cas := { readingTape.cas with
      byteCursor := i, bitCursor := j
      transition := readingTape.cas.transition.map fun t => { t with phase := ph, bit := b } } }

/-- Inside a byte, and at the end of a phase that another of the same bit follows. -/
theorem witness_WaveformRuns :
    0 < readingTape.cas.bitCursor ∧ (readingTape.cas.transition.map (fun t => t.phaseEnd)) = some readingTape.tickCount ∧
      readingTape.cas.byteCursor < readingTape.cas.data.size ∧
      phaseAfter readingTape.params true .hiPos = some (.hiNeg, .negative, 378000) := by decide

/-- A bit that ends, of either speed, inside a byte, at a byte's end and at the tape's end, the motor on. -/
theorem witness_WaveformRuns_bits :
    let mid := readingAt 0 3 .hiNeg true
    let next := readingAt 0 0 .loPostClk false
    let last := readingAt 1 0 .loPostDat true
    TapeGoesOn mid.cas ∧ TapeGoesOn next.cas ∧ ¬ TapeGoesOn last.cas ∧ last.cas.motorOn = true ∧
      last.cas.byteCursor < last.cas.data.size ∧ 0 < mid.params.loPulsePos ∧
      mid.cas.transition.map (fun t => (t.phase, t.phaseEnd)) = some (.hiNeg, mid.tickCount) ∧
      next.cas.transition.map (fun t => (t.phase, t.bit, t.phaseEnd)) = some (.loPostClk, false, next.tickCount) ∧
      last.cas.transition.map (fun t => (t.phase, t.phaseEnd)) = some (.loPostDat, last.tickCount) := by decide

/-- R180: the 21st byte of a run of 0x55 and 0xAA sets the speed, the 20th does not. -/
theorem test_header_detector :
    let c := { readingTape.cas with speed := .low, consecutiveFiftyFives := 20 }
    (feedHeaderDetector 0xAA#8 c).speed = .high ∧
      (feedHeaderDetector 0xAA#8 { c with consecutiveFiftyFives := 19 }).speed = .low ∧
      (feedHeaderDetector 0x00#8 c).consecutiveFiftyFives = 0 := by decide

theorem witness_ReadCallbackCatchesUp : isNext (cassetteReadCallback readingTape) = true := by decide

/-- A tape being written, with the cursor at `(i, j)` of `n` bytes. -/
def writingTape (n i j : Nat) : State :=
  { State.reset with
    tickCount := 5756000
    cas := { State.reset.cas with
      data := { size := n, cells := [] }, byteCursor := i, bitCursor := j, motorEngaged := true, motorOnSignal := true
      motorOn := true, recordInvoked := true, lastWritePositive := 5000000 } }

/-- The cursor inside a byte, at a byte's end, at the end of a tape that grows and of one that cannot. -/
theorem witness_TapeBitWritten :
    CassetteInv (writingTape 2048 0 7) ∧ CassetteInv (writingTape 2048 0 0) ∧ CassetteInv (writingTape 2048 2047 0) ∧
      CassetteInv (writingTape 73728 73727 0) ∧ 2048 < min 73728 (2048 * 11 / 10) ∧
      min 73728 (73728 * 11 / 10) ≤ 73728 := by
  refine ⟨?_, ?_, ?_, ?_, by decide, by decide⟩ <;>
    exact
      { bitCursor := by decide, byteCursor := by decide, length := by decide, canonical := by decide, motor := by decide
        blank := by decide, evidence := by decide, transition := by decide, readRequest := by decide }

/-- A positive edge 756,000 ticks after the one before, and the class ranges' ends. -/
theorem witness_WriteEdgesClassified :
    let s := writingTape 2048 0 7
    s.params.wf = true ∧ s.cas.motorOn = true ∧ s.cas.recordInvoked = true ∧ s.cas.byteCursor < s.cas.data.size ∧
      (0x01#8).getLsbD 1 = false ∧ (0x01#8).getLsbD 0 = true ∧ s.cas.lastWritePolarity ≠ .positive ∧
      s.tickCount - s.cas.lastWritePositive = 756000 ∧ s.cas.skippedLast = false ∧
      edgeClass 721000 = .high ∧ edgeClass 1861000 = .high ∧ edgeClass 1923000 = .low ∧ edgeClass 4379000 = .low ∧
      edgeClass 797001 = .ignored := by decide

/-- A low interval with and without the clock pulse skipped before it, on both sides of 3,000,000 ticks. -/
theorem witness_WriteEdgesClassified_low :
    let s := writingTape 2048 0 7
    let skipped := { s with cas := { s.cas with skippedLast := true } }
    edgeClass ({ s with tickCount := 7100000 }.tickCount - s.cas.lastWritePositive) = .low ∧
      edgeClass ({ s with tickCount := 9100000 }.tickCount - s.cas.lastWritePositive) = .low ∧
      (7100000 : Nat) - 5000000 ≤ 3000000 ∧ (3000000 : Nat) < 9100000 - 5000000 ∧ skipped.cas.skippedLast = true ∧
      skipped.cas.motorOn = true ∧ skipped.cas.recordInvoked = true := by decide

/-- Polarities that measure nothing: the one noted, the two others, and Positive while not writing. -/
theorem witness_WriteEdgesClassified_unmeasured :
    let s := writingTape 2048 0 7
    portPolarity 0x00#8 = s.cas.lastWritePolarity ∧ portPolarity 0x03#8 = .zero ∧ portPolarity 0x02#8 = .negative ∧
      portPolarity 0x01#8 = .positive ∧ readingTape.cas.recordInvoked = false ∧ readingTape.params.wf = true ∧
      readingTape.cas.lastWritePolarity ≠ .positive ∧ State.reset.cas.motorOn = false := by decide

/-- The invariant holds of a state in the middle of a write, with the clock running and a request pending. -/
theorem witness_Inv : Inv (busyAt .writeSector .writeSync 21) where
  requests :=
    { command := by decide, motorOn := by decide, motorOff := by decide, read := by decide }
  clock :=
    { width := by decide, notLate := fun q => by cases q <;> decide, numbered := fun q => by cases q <;> decide }
  fdc :=
    { busyIff := by decide, requestBusy := by decide, busyRequest := by decide, drqTransfer := by decide
      tracks := fun d => by cases d <;> decide, polling := by decide, continuation := by decide, dispatch := by decide }
  cassette :=
    { bitCursor := by decide, byteCursor := by decide, length := by decide, canonical := by decide, motor := by decide
      blank := by decide, evidence := by decide, transition := by decide, readRequest := by decide }
  media := witness_media_at _ _ _

/-- From it the block goes on by itself, and the byte under the head changes. -/
theorem witness_OnlyWritesChangeDisks :
    let s := busyAt .writeSector .writeSync 21
    isNext (step s) = true ∧ s.inputs = [] ∧ resetsNext s = false ∧ changesMediaNext s = false ∧
      mediaByte (stateOf (step s)) .d0 5 false 21 ≠ mediaByte s .d0 5 false 21 := by decide

theorem witness_OnlyInputsAreRefused :
    step { busyAt .writeSector .writeSync 21 with inputs := [.portOut 0xF0#8 0x80#8] } = .refused .commandWhileBusy := by
  rfl

theorem witness_HeadsMoveOneTrack :
    let s := { onTrack 79 with inputs := [.portOut 0xF0#8 0x40#8] }
    isNext (step s) = true ∧ ((stateOf (step s)).drives.get .d0).physicalTrack ≠ (s.drives.get .d0).physicalTrack := by
  decide

/-- A status read unlatches `FdcNmi`. -/
theorem witness_LatchesHold :
    let s := { idleState with latches.fdcNmi := true, inputs := [.portIn 0xF0#8] }
    isNext (step s) = true ∧ s.latches.get .fdcNmi = true ∧ (stateOf (step s)).latches.get .fdcNmi = false := by decide

end Sys2Proof.Tests
end

section
/-! SUPPORT. What the FDC's sequencer can do in one run, said once: it works on registers and media without touching the
clock, the scheduler or the cassette, and then arms the next wait (42_fdc_ports_dispatch.md R241). -/

namespace Sys2Proof.Machine

/-! ## The work before a wait -/

/-- The state `u` differs from `s` by sequencer work only: clock, scheduler, latches, cassette and configuration stand, the
command runs on, `drq` rises only in a transfer (10_state.md R35), and heads and disks stay as R35 and R60 want them. -/
structure Worked (s u : State) : Prop where
  params : u.params = s.params
  tickCount : u.tickCount = s.tickCount
  sched : u.sched = s.sched
  latches : u.latches = s.latches
  cas : u.cas = s.cas
  command : u.fdc.command = s.fdc.command
  busy : u.fdc.busy = s.fdc.busy
  enabled : u.fdc.enabled = s.fdc.enabled
  drq : u.fdc.drq = true → s.fdc.drq = true ∨ s.fdc.command.transfers = true
  heads : (∀ d, (s.drives.get d).physicalTrack ≤ Config.maxTracks) →
    ∀ d, (u.drives.get d).physicalTrack ≤ Config.maxTracks
  media : MediaInv s → MediaInv u

section

variable {s u v t : State}

theorem Worked.refl (s : State) : Worked s s :=
  ⟨rfl, rfl, rfl, rfl, rfl, rfl, rfl, rfl, .inl, id, id⟩

theorem Worked.trans (a : Worked s u) (b : Worked u v) : Worked s v where
  params := b.params.trans a.params
  tickCount := b.tickCount.trans a.tickCount
  sched := b.sched.trans a.sched
  latches := b.latches.trans a.latches
  cas := b.cas.trans a.cas
  command := b.command.trans a.command
  busy := b.busy.trans a.busy
  enabled := b.enabled.trans a.enabled
  drq h := (b.drq h).elim a.drq fun ht => .inr (a.command ▸ ht)
  heads h := b.heads (a.heads h)
  media h := b.media (a.media h)

/-- Registers rewritten, but for the command, `busy` and `enabled`. -/
theorem Worked.ofFdc {f : Fdc} (hd : f.drq = true → s.fdc.drq = true ∨ s.fdc.command.transfers = true := by exact .inl)
    (hc : f.command = s.fdc.command := by rfl) (hb : f.busy = s.fdc.busy := by rfl)
    (he : f.enabled = s.fdc.enabled := by rfl) : Worked s { s with fdc := f } :=
  { Worked.refl s with command := hc, busy := hb, enabled := he, drq := hd }

/-- Drives rewritten: heads within their range, disks well formed. -/
theorem Worked.ofDrives {d : Drives}
    (hh : (∀ k, (s.drives.get k).physicalTrack ≤ Config.maxTracks) → ∀ k, (d.get k).physicalTrack ≤ Config.maxTracks)
    (hm : MediaInv s → ∀ k, floppyWf (d.get k).floppy = true) : Worked s { s with drives := d } :=
  { Worked.refl s with heads := hh, media := hm }

theorem emit_worked (e : Output) (s : State) : Worked s (emit e s) := { Worked.refl s with }

theorem afterTrackRead_worked (s : State) : Worked s (afterTrackRead s) := by
  unfold afterTrackRead
  split
  · exact { Worked.refl s with }
  · exact Worked.refl s

theorem trackWrite_worked (i : Nat) (b : Byte) (m : Bool) (s : State) : Worked s (trackWrite i b m s) := by
  rw [trackWrite_drives]
  refine Worked.ofDrives (fun h k => ?_) (fun h k => ?_)
  · rw [trackWrite_get]
    split
    · rw [DriveState.writeTrack_physicalTrack]; exact h k
    · exact h k
  · rw [trackWrite_get]
    split
    · exact DriveState.writeTrack_wf _ _ _ _ _ (h k)
    · exact h k

theorem noteSync_worked (s : State) : Worked s (noteSync s) := by
  unfold noteSync
  split
  · exact Worked.refl s
  · exact emit_worked _ s

/-- One head moved to a track within its range. -/
theorem Worked.moveHead {d : DriveId} {n : Nat}
    (hn : (s.drives.get d).physicalTrack ≤ Config.maxTracks → n ≤ Config.maxTracks) :
    Worked s { s with drives := s.drives.set d { s.drives.get d with physicalTrack := n } } := by
  refine Worked.ofDrives (fun h k => ?_) (fun h k => ?_)
  · rw [Drives.get_set]
    split
    · exact hn (h d)
    · exact h k
  · rw [Drives.get_set]
    split
    · exact h d
    · exact h k

theorem stepHead_worked (s : State) : Worked s (stepHead s) := by
  unfold stepHead
  split
  · obtain ⟨d, -, hlt, he⟩ | he := stepUp_cases s
    · rw [he]
      exact (Worked.moveHead fun _ => hlt).trans (emit_worked _ _)
    · rw [he]
      exact Worked.refl s
  · obtain ⟨d, -, -, he⟩ | he := stepDown_cases s
    · rw [he]
      exact ((Worked.moveHead fun h => (Nat.sub_le _ _).trans h).trans Worked.ofFdc).trans (emit_worked _ _)
    · rw [he]
      exact Worked.refl s

theorem countStep_worked (s : State) : Worked s (countStep s) := by
  unfold countStep
  split
  · exact Worked.ofFdc
  · exact Worked.refl s

theorem transformState_worked (b : Byte) (s : State) : Worked s (transformState b s) := by
  unfold transformState
  split
  · exact Worked.ofFdc
  · split
    · split
      · exact Worked.ofFdc
      · split
        · exact Worked.ofFdc
        · split
          · exact (afterTrackRead_worked s).trans Worked.ofFdc
          · exact Worked.ofFdc
    · split <;> exact Worked.ofFdc

/-! ## The wait that ends a run -/

/-- A run of the sequencer that goes on: work, then a time wait or a byte wait into a state that the table of R241 holds for
the command. -/
def GoesOn (s t : State) : Prop :=
  ∃ u st, Worked s u ∧ dispatchHolds s.fdc.command st = true ∧
    ((∃ us, t = waitTime us st u) ∨ ∃ n, t = armByteWait n st u)

theorem GoesOn.of_worked (h : GoesOn u t) (w : Worked s u) : GoesOn s t := by
  obtain ⟨x, st, wx, hd, ht⟩ := h
  exact ⟨x, st, w.trans wx, w.command ▸ hd, ht⟩

section

variable {st : OpStatus} {c : Command}

theorem waitTime_goesOn (us : Nat) (s : State) (hc : s.fdc.command = c) (hd : dispatchHolds c st = true) :
    GoesOn s (waitTime us st s) :=
  ⟨s, st, Worked.refl s, hc ▸ hd, .inl ⟨us, rfl⟩⟩

theorem armByteWait_goesOn (n : Nat) (s : State) (hc : s.fdc.command = c) (hd : dispatchHolds c st = true) :
    GoesOn s (armByteWait n st s) :=
  ⟨s, st, Worked.refl s, hc ▸ hd, .inr ⟨n, rfl⟩⟩

theorem waitBytes_goesOn {n : Nat} (h : waitBytes n st s = .next t) (hc : s.fdc.command = c)
    (hd : dispatchHolds c st = true) : GoesOn s t :=
  waitBytes_next h ▸ armByteWait_goesOn n s hc hd

/-- `Terminate` is a time wait into state `NMI` (60_exceptions.md R441). -/
theorem terminate_goesOn (s : State) (hc : s.fdc.command = c) (hd : dispatchHolds c .nmi = true) :
    GoesOn s (terminate s) :=
  waitTime_goesOn _ s hc hd

theorem startSearch_goesOn (h : startSearch st s = .next t) (hc : s.fdc.command = c)
    (hd : dispatchHolds c st = true) : GoesOn s t :=
  (waitBytes_goesOn h hc hd).of_worked Worked.ofFdc

theorem delayOrSearch_goesOn (h : delayOrSearch st s = .next t) (hc : s.fdc.command = c)
    (hdelay : dispatchHolds c .delay = true) (hd : dispatchHolds c st = true) : GoesOn s t := by
  obtain ⟨-, rfl⟩ | ⟨-, rfl⟩ := delayOrSearch_next h
  · exact waitTime_goesOn _ s hc hdelay
  · exact (armByteWait_goesOn 1 (resetIndexCount s) hc hd).of_worked Worked.ofFdc

/-! ## The search and the header read (42_fdc_ports_dispatch.md R260, R261) -/

theorem seekingIDAM_goesOn (h : seekingIDAM s = .next t) (hc : s.fdc.command = c)
    (hn : dispatchHolds c .nmi = true) (hs : dispatchHolds c .seekingIDAM = true)
    (hr : dispatchHolds c .readingAddressData = true) : GoesOn s t := by
  obtain ⟨-, rfl⟩ | ⟨-, -, rfl⟩ | ⟨-, -, rfl⟩ := seekingIDAM_next h
  · exact (terminate_goesOn { s with fdc.seekError := true } hc hn).of_worked Worked.ofFdc
  · have w := afterTrackRead_worked s
    generalize afterTrackRead s = u at w ⊢
    exact GoesOn.of_worked (armByteWait_goesOn _ _ (by exact w.command.trans hc) hr) (w.trans Worked.ofFdc)
  · exact armByteWait_goesOn 1 s hc hs

/-- The read of a header goes on if its header-complete rule does. -/
theorem headerByte_goesOn {f : State → Host.Outcome State Fault Refusal} {b : Byte} (h : headerByte b f s = .next t)
    (hc : s.fdc.command = c) (hr : dispatchHolds c .readingAddressData = true)
    (hf : ∀ u, f u = .next t → u.fdc.command = c → GoesOn u t) : GoesOn s t := by
  have w : Worked s (storeHeaderByte b s) := Worked.ofFdc
  obtain ⟨-, h⟩ | ⟨-, rfl⟩ := headerByte_next h
  · exact (hf _ h hc).of_worked (w.trans Worked.ofFdc)
  · exact (armByteWait_goesOn 1 (storeHeaderByte b s) hc hr).of_worked w

theorem readingAddressData_goesOn {f : State → Host.Outcome State Fault Refusal}
    (h : readingAddressData f s = .next t) (hc : s.fdc.command = c)
    (hr : dispatchHolds c .readingAddressData = true)
    (hf : ∀ u, f u = .next t → u.fdc.command = c → GoesOn u t) : GoesOn s t := by
  obtain ⟨-, -, h⟩ := withHead_next h
  have w := afterTrackRead_worked s
  exact (headerByte_goesOn h (w.command.trans hc) hr hf).of_worked w

end

end

end Sys2Proof.Machine
end

section
/-! SUPPORT. Every rule of the sequencer goes on: family by family, each row of 42_fdc_ports_dispatch.md R241 works and then
waits in a state that the table holds. -/

namespace Sys2Proof.Machine

section

variable {s t : State} {c : Command}

/-! ## Type I (43_fdc_type1.md) -/

/-- The rows of the three Type I commands (R241). -/
theorem dispatchHolds_typeI {st : OpStatus} (hI : c = .restore ∨ c = .seek ∨ c = .step)
    (hs : st ∈ [OpStatus.nmi, .step, .checkVerify, .seekingIDAM, .readingAddressData]) : dispatchHolds c st = true := by
  obtain rfl | rfl | rfl := hI <;> revert st <;> decide

section

variable (hc : s.fdc.command = c) (hI : c = .restore ∨ c = .seek ∨ c = .step)

include hc hI

theorem checkVerify_goesOn : GoesOn s (checkVerify s) := by
  unfold checkVerify
  split
  · exact (waitTime_goesOn _ (resetIndexCount s) hc (dispatchHolds_typeI hI (by decide))).of_worked Worked.ofFdc
  · exact waitTime_goesOn _ s hc (dispatchHolds_typeI hI (by decide))

theorem endStepPass_goesOn : GoesOn s (endStepPass s) := by
  unfold endStepPass
  split
  · exact (waitTime_goesOn _ { s with fdc.trackRegister := 0x00#8 } hc
      (dispatchHolds_typeI hI (by decide))).of_worked Worked.ofFdc
  · split <;> exact waitTime_goesOn _ s hc (dispatchHolds_typeI hI (by decide))

theorem stepPass_goesOn : GoesOn s (stepPass s) := by
  have w := (countStep_worked s).trans (stepHead_worked _)
  exact (endStepPass_goesOn (w.command.trans hc) hI).of_worked w

theorem typeIStep_goesOn : GoesOn s (typeIStep s) := by
  unfold typeIStep
  split
  · split
    · exact (checkVerify_goesOn (s := { s with fdc.opStatus := .checkVerify }) hc hI).of_worked Worked.ofFdc
    · exact (stepPass_goesOn
        (s := { s with fdc.lastStepDirUp := decide (s.fdc.trackRegister < s.fdc.dataRegister) }) hc hI).of_worked
          Worked.ofFdc
  · exact stepPass_goesOn hc hI

theorem typeIPrepare_goesOn : GoesOn s (typeIPrepare s) :=
  (typeIStep_goesOn (s := { typeIDecode s with fdc.opStatus := .step }) hc hI).of_worked Worked.ofFdc

end

theorem verifyTrack_goesOn (h : verifyTrack s = .next t) (hc : s.fdc.command = c)
    (hI : c = .restore ∨ c = .seek ∨ c = .step) : GoesOn s t := by
  unfold verifyTrack at h
  split at h
  · cases h
    exact terminate_goesOn s hc (dispatchHolds_typeI hI (by decide))
  · exact waitBytes_goesOn h hc (dispatchHolds_typeI hI (by decide))

theorem typeIAdvance_goesOn (h : typeIAdvance s = .next t) (hc : s.fdc.command = c)
    (hI : c = .restore ∨ c = .seek ∨ c = .step) : GoesOn s t := by
  have holds {st : OpStatus} := dispatchHolds_typeI (st := st) hI
  unfold typeIAdvance at h
  cases ho : s.fdc.opStatus <;> simp only [ho] at h
  case prepare => cases h; exact typeIPrepare_goesOn hc hI
  case step => cases h; exact typeIStep_goesOn hc hI
  case checkVerify => cases h; exact checkVerify_goesOn hc hI
  case seekingIDAM => exact seekingIDAM_goesOn h hc (holds (by decide)) (holds (by decide)) (holds (by decide))
  case readingAddressData =>
    exact readingAddressData_goesOn h hc (holds (by decide)) fun _ h hc => verifyTrack_goesOn h hc hI
  all_goals cases h

/-! ## Type II (44_fdc_type2.md) -/

/-- The rows that ReadSector and WriteSector share (R241). -/
theorem dispatchHolds_typeII {st : OpStatus} (hII : c = .readSector ∨ c = .writeSector)
    (hs : st ∈ [OpStatus.nmi, .delay, .seekingIDAM, .readingAddressData]) : dispatchHolds c st = true := by
  obtain rfl | rfl := hII <;> revert st <;> decide

theorem typeIIPrepare_goesOn (h : typeIIPrepare s = .next t) (hc : s.fdc.command = c)
    (hII : c = .readSector ∨ c = .writeSector) : GoesOn s t := by
  have holds {st : OpStatus} := dispatchHolds_typeII (st := st) hII
  have w : Worked s (typeIIDecode s) := Worked.ofFdc
  unfold typeIIPrepare at h
  split at h
  · cases h
    exact (terminate_goesOn { typeIIDecode s with fdc.writeProtected := true } hc (holds (by decide))).of_worked
      Worked.ofFdc
  · exact (delayOrSearch_goesOn h hc (holds (by decide)) (holds (by decide))).of_worked w

theorem beginTransfer_goesOn (h : beginTransfer s = .next t) (hc : s.fdc.command = c)
    (hII : c = .readSector ∨ c = .writeSector) : GoesOn s t := by
  unfold beginTransfer at h
  split at h
  · rename_i hr
    exact (waitBytes_goesOn h hr rfl).of_worked Worked.ofFdc
  · rename_i hr
    have hw : s.fdc.command = .writeSector := hc.trans (hII.resolve_left fun he => hr (hc.trans he))
    exact (waitBytes_goesOn h hw rfl).of_worked (Worked.ofFdc fun _ => .inr (by rw [hw]; rfl))

theorem typeIIHeader_goesOn (h : typeIIHeader s = .next t) (hc : s.fdc.command = c)
    (hII : c = .readSector ∨ c = .writeSector) : GoesOn s t := by
  have holds {st : OpStatus} := dispatchHolds_typeII (st := st) hII
  unfold typeIIHeader at h
  split at h
  · exact waitBytes_goesOn h hc (holds (by decide))
  · split at h
    · cases h
      exact (terminate_goesOn { s with fdc.crcError := true } hc (holds (by decide))).of_worked Worked.ofFdc
    · exact beginTransfer_goesOn h hc hII

theorem endRecord_goesOn (h : endRecord s = .next t) (hc : s.fdc.command = c)
    (hII : c = .readSector ∨ c = .writeSector) : GoesOn s t := by
  obtain ⟨-, rfl⟩ | ⟨-, rfl⟩ := endRecord_next h
  · exact (armByteWait_goesOn 1 { s with fdc.sectorRegister := s.fdc.sectorRegister + 1#8 } hc
      (dispatchHolds_typeII hII (by decide))).of_worked Worked.ofFdc
  · exact terminate_goesOn s hc (dispatchHolds_typeII hII (by decide))

/-- The states before the data field, which ReadSector and WriteSector share (R310 to R318). -/
theorem typeIISearch_goesOn
    (h : typeIIPrepare s = .next t ∨ typeIIDelay s = .next t ∨ seekingIDAM s = .next t ∨
      readingAddressData typeIIHeader s = .next t)
    (hc : s.fdc.command = c) (hII : c = .readSector ∨ c = .writeSector) : GoesOn s t := by
  have holds {st : OpStatus} := dispatchHolds_typeII (st := st) hII
  obtain h | h | h | h := h
  · exact typeIIPrepare_goesOn h hc hII
  · exact startSearch_goesOn h hc (holds (by decide))
  · exact seekingIDAM_goesOn h hc (holds (by decide)) (holds (by decide)) (holds (by decide))
  · exact readingAddressData_goesOn h hc (holds (by decide)) fun _ h hc => typeIIHeader_goesOn h hc hII

/-! ### ReadSector -/

theorem seekingDAM_goesOn (h : seekingDAM s = .next t) (hc : s.fdc.command = .readSector) : GoesOn s t := by
  obtain ⟨-, -, h⟩ := withHead_next h
  have w := afterTrackRead_worked s
  generalize afterTrackRead s = u at w h
  replace hc := w.command.trans hc
  unfold seekingDAMByte at h
  split at h
  · exact (waitBytes_goesOn h hc rfl).of_worked (w.trans Worked.ofFdc)
  · split at h <;> exact (waitBytes_goesOn h hc rfl).of_worked (w.trans Worked.ofFdc)

theorem deliverByte_worked (b : Byte) (hc : s.fdc.command = .readSector) : Worked s (deliverByte b s) :=
  Worked.ofFdc fun _ => .inr (by rw [hc]; rfl)

theorem readSectorData_goesOn (h : readSectorData s = .next t) (hc : s.fdc.command = .readSector) : GoesOn s t := by
  obtain ⟨-, -, h⟩ := withHead_next h
  have w := afterTrackRead_worked s
  replace w := w.trans (deliverByte_worked (trackByte s (trackDataIndex s)) (w.command.trans hc))
  generalize deliverByte (trackByte s (trackDataIndex s)) (afterTrackRead s) = u at w h
  replace hc := w.command.trans hc
  unfold afterDataByte at h
  split at h
  · exact (waitBytes_goesOn h hc rfl).of_worked (w.trans Worked.ofFdc)
  · exact (waitBytes_goesOn h hc rfl).of_worked w

theorem readCRCHigh_goesOn (h : readCRCHigh s = .next t) (hc : s.fdc.command = .readSector) : GoesOn s t := by
  obtain ⟨-, -, h⟩ := withHead_next h
  have w := afterTrackRead_worked s
  generalize afterTrackRead s = u at w h
  exact (waitBytes_goesOn h (w.command.trans hc) rfl).of_worked (w.trans Worked.ofFdc)

theorem checkDataCrc_goesOn (h : checkDataCrc s = .next t) (hc : s.fdc.command = .readSector) : GoesOn s t := by
  unfold checkDataCrc at h
  split at h
  · cases h
    exact (terminate_goesOn { s with fdc.crcError := true } hc rfl).of_worked Worked.ofFdc
  · exact endRecord_goesOn h hc (.inl rfl)

theorem readCRCLow_goesOn (h : readCRCLow s = .next t) (hc : s.fdc.command = .readSector) : GoesOn s t := by
  obtain ⟨-, -, h⟩ := withHead_next h
  have w := afterTrackRead_worked s
  generalize afterTrackRead s = u at w h
  exact (checkDataCrc_goesOn h (w.command.trans hc)).of_worked (w.trans Worked.ofFdc)

theorem readSectorAdvance_goesOn (h : readSectorAdvance s = .next t) (hc : s.fdc.command = .readSector) :
    GoesOn s t := by
  unfold readSectorAdvance at h
  cases ho : s.fdc.opStatus <;> simp only [ho] at h
  case prepare => exact typeIISearch_goesOn (.inl h) hc (.inl rfl)
  case delay => exact typeIISearch_goesOn (.inr (.inl h)) hc (.inl rfl)
  case seekingIDAM => exact typeIISearch_goesOn (.inr (.inr (.inl h))) hc (.inl rfl)
  case readingAddressData => exact typeIISearch_goesOn (.inr (.inr (.inr h))) hc (.inl rfl)
  case seekingDAM => exact seekingDAM_goesOn h hc
  case readingData => exact readSectorData_goesOn h hc
  case readCRCHigh => exact readCRCHigh_goesOn h hc
  case readCRCLow => exact readCRCLow_goesOn h hc
  all_goals cases h

/-! ### WriteSector -/

theorem drqCheck_goesOn (h : drqCheck s = .next t) (hc : s.fdc.command = .writeSector) : GoesOn s t := by
  unfold drqCheck at h
  split at h
  · cases h
    exact (terminate_goesOn { s with fdc.lostData := true } hc rfl).of_worked Worked.ofFdc
  · exact (waitBytes_goesOn h hc rfl).of_worked Worked.ofFdc

theorem writeCounted_worked (b : Byte) (s : State) : Worked s (writeCounted b s) :=
  (trackWrite_worked _ b false s).trans Worked.ofFdc

theorem writeFiller_goesOn (h : writeFiller s = .next t) (hc : s.fdc.command = .writeSector) : GoesOn s t := by
  obtain ⟨-, -, h⟩ := withHead_next h
  have w := writeCounted_worked 0x00#8 s
  generalize writeCounted 0x00#8 s = u at w h
  replace hc := w.command.trans hc
  dsimp only at h
  split at h
  · split at h
    · exact (waitBytes_goesOn h hc rfl).of_worked (w.trans Worked.ofFdc)
    · exact (waitBytes_goesOn h hc rfl).of_worked w
  · exact (waitBytes_goesOn h hc rfl).of_worked w

theorem writeSync_goesOn (h : writeSync s = .next t) (hc : s.fdc.command = .writeSector) : GoesOn s t := by
  obtain ⟨-, -, h⟩ := withHead_next h
  have w := writeCounted_worked 0xA1#8 s
  generalize writeCounted 0xA1#8 s = u at w h
  dsimp only at h
  split at h <;> exact (waitBytes_goesOn h (w.command.trans hc) rfl).of_worked w

theorem writeDAM_goesOn (h : writeDAM s = .next t) (hc : s.fdc.command = .writeSector) : GoesOn s t := by
  obtain ⟨-, -, h⟩ := withHead_next h
  have w : Worked s (startCrc (damByte s) s) := Worked.ofFdc
  replace w := w.trans (trackWrite_worked (trackDataIndex s) (damByte s) false _)
  generalize trackWrite (trackDataIndex s) (damByte s) false (startCrc (damByte s) s) = u at w h
  exact (waitBytes_goesOn h (w.command.trans hc) rfl).of_worked (w.trans Worked.ofFdc)

theorem writeSectorData_goesOn (h : writeSectorData s = .next t) (hc : s.fdc.command = .writeSector) : GoesOn s t := by
  obtain ⟨-, -, h⟩ := withHead_next h
  have w : Worked s (noteTaken s) := Worked.ofFdc
  replace w := w.trans (writeCounted_worked (takenByte s) _)
  generalize writeCounted (takenByte s) (noteTaken s) = u at w h
  replace hc := w.command.trans hc
  dsimp only at h
  split at h
  · exact (waitBytes_goesOn h hc rfl).of_worked (w.trans (Worked.ofFdc nofun))
  · exact (waitBytes_goesOn h hc rfl).of_worked (w.trans (Worked.ofFdc fun _ => .inr (by rw [hc]; rfl)))

theorem writeCRCHigh_goesOn (h : writeCRCHigh s = .next t) (hc : s.fdc.command = .writeSector) : GoesOn s t := by
  obtain ⟨-, -, h⟩ := withHead_next h
  have w : Worked s (splitCrc s) := Worked.ofFdc
  replace w := w.trans (trackWrite_worked (trackDataIndex s) (splitCrc s).fdc.crcHigh false _)
  exact (waitBytes_goesOn h (w.command.trans hc) rfl).of_worked w

theorem writeSectorCRCLow_goesOn (h : writeSectorCRCLow s = .next t) (hc : s.fdc.command = .writeSector) :
    GoesOn s t := by
  obtain ⟨-, -, h⟩ := withHead_next h
  have w := trackWrite_worked (trackDataIndex s) s.fdc.crcLow false s
  exact (waitBytes_goesOn h (w.command.trans hc) rfl).of_worked w

theorem writeTrailer_goesOn (h : writeTrailer s = .next t) (hc : s.fdc.command = .writeSector) : GoesOn s t := by
  obtain ⟨-, -, h⟩ := withHead_next h
  have w := trackWrite_worked (trackDataIndex s) 0xFF#8 false s
  exact (endRecord_goesOn h (w.command.trans hc) (.inr rfl)).of_worked w

theorem writeSectorAdvance_goesOn (h : writeSectorAdvance s = .next t) (hc : s.fdc.command = .writeSector) :
    GoesOn s t := by
  unfold writeSectorAdvance at h
  cases ho : s.fdc.opStatus <;> simp only [ho] at h
  case prepare => exact typeIISearch_goesOn (.inl h) hc (.inr rfl)
  case delay => exact typeIISearch_goesOn (.inr (.inl h)) hc (.inr rfl)
  case seekingIDAM => exact typeIISearch_goesOn (.inr (.inr (.inl h))) hc (.inr rfl)
  case readingAddressData => exact typeIISearch_goesOn (.inr (.inr (.inr h))) hc (.inr rfl)
  case drqCheck => exact drqCheck_goesOn h hc
  case writeFiller => exact writeFiller_goesOn h hc
  case writeSync => exact writeSync_goesOn h hc
  case writeDAM => exact writeDAM_goesOn h hc
  case writingData => exact writeSectorData_goesOn h hc
  case writeCRCHigh => exact writeCRCHigh_goesOn h hc
  case writeCRCLow => exact writeSectorCRCLow_goesOn h hc
  case writeTrailer => exact writeTrailer_goesOn h hc
  all_goals cases h

/-! ## Type III (45_fdc_type3.md) -/

theorem typeIIIDecode_worked (s : State) : Worked s (typeIIIDecode s) := Worked.ofFdc

/-- A byte offered to the CPU raises `drq`, which the commands that transfer data may do (10_state.md R35 (b)). -/
theorem offerByte_worked (b : Byte) (hc : s.fdc.command.transfers = true) : Worked s (offerByte b s) :=
  Worked.ofFdc fun _ => .inr hc

/-! ### ReadAddress -/

theorem readAddressHeader_goesOn (h : readAddressHeader s = .next t) (hc : s.fdc.command = .readAddress) :
    GoesOn s t := by
  cases h
  exact GoesOn.of_worked (terminate_goesOn _ (by exact hc) rfl) Worked.ofFdc

theorem readAddressByte_goesOn (h : readAddressByte s = .next t) (hc : s.fdc.command = .readAddress) : GoesOn s t := by
  obtain ⟨-, -, h⟩ := withHead_next h
  have w := afterTrackRead_worked s
  replace hc := w.command.trans hc
  exact (headerByte_goesOn h hc rfl fun _ h hc => readAddressHeader_goesOn h hc).of_worked
    (w.trans (offerByte_worked _ (by rw [hc]; rfl)))

theorem readAddressAdvance_goesOn (h : readAddressAdvance s = .next t) (hc : s.fdc.command = .readAddress) :
    GoesOn s t := by
  unfold readAddressAdvance at h
  cases ho : s.fdc.opStatus <;> simp only [ho] at h
  case prepare => exact (delayOrSearch_goesOn h hc rfl rfl).of_worked (typeIIIDecode_worked s)
  case delay => exact startSearch_goesOn h hc rfl
  case seekingIDAM => exact seekingIDAM_goesOn h hc rfl rfl rfl
  case readingAddressData => exact readAddressByte_goesOn h hc
  all_goals cases h

/-! ### ReadTrack -/

theorem readTrackData_goesOn (h : readTrackData s = .next t) (hc : s.fdc.command = .readTrack) : GoesOn s t := by
  unfold readTrackData at h
  split at h
  · cases h
    exact terminate_goesOn s hc rfl
  · obtain ⟨-, -, h⟩ := withHead_next h
    have w := afterTrackRead_worked s
    replace hc := w.command.trans hc
    exact (waitBytes_goesOn h hc rfl).of_worked (w.trans (offerByte_worked _ (by rw [hc]; rfl)))

theorem readTrackIndexHole_goesOn (h : readTrackIndexHole s = .next t) (hc : s.fdc.command = .readTrack) :
    GoesOn s t := by
  unfold readTrackIndexHole at h
  split at h
  · exact (readTrackData_goesOn h hc).of_worked Worked.ofFdc
  · exact waitBytes_goesOn h hc rfl

theorem readTrackAdvance_goesOn (h : readTrackAdvance s = .next t) (hc : s.fdc.command = .readTrack) : GoesOn s t := by
  unfold readTrackAdvance at h
  cases ho : s.fdc.opStatus <;> simp only [ho] at h
  case prepare => exact (delayOrSearch_goesOn h hc rfl rfl).of_worked (typeIIIDecode_worked s)
  case delay => exact startSearch_goesOn h hc rfl
  case seekingIndexHole => exact readTrackIndexHole_goesOn h hc
  case readingData => exact readTrackData_goesOn h hc
  all_goals cases h

/-! ### WriteTrack -/

theorem writeTrackPrepare_goesOn (h : writeTrackPrepare s = .next t) (hc : s.fdc.command = .writeTrack) :
    GoesOn s t := by
  have w := typeIIIDecode_worked s
  unfold writeTrackPrepare at h
  split at h
  · cases h
    exact (terminate_goesOn { typeIIIDecode s with fdc.writeProtected := true } hc rfl).of_worked Worked.ofFdc
  · exact (delayOrSearch_goesOn h hc rfl rfl).of_worked
      (w.trans (Worked.ofFdc fun _ => .inr (by rw [w.command, hc]; rfl)))

theorem writeTrackByte_goesOn {b : Byte} (h : writeTrackByte b s = .next t) (hc : s.fdc.command = .writeTrack) :
    GoesOn s t := by
  have w := (transformState_worked b s).trans
    (trackWrite_worked (trackDataIndex s) (transform b s).out (transform b s).mark _)
  unfold writeTrackByte at h
  generalize trackWrite (trackDataIndex s) (transform b s).out (transform b s).mark (transformState b s) = u at w h
  replace hc := w.command.trans hc
  dsimp only at h
  split at h
  · exact (waitBytes_goesOn h hc rfl).of_worked (w.trans (Worked.ofFdc nofun))
  · exact (waitBytes_goesOn h hc rfl).of_worked (w.trans (Worked.ofFdc fun _ => .inr (by rw [hc]; rfl)))

theorem writeTrackData_goesOn (h : writeTrackData s = .next t) (hc : s.fdc.command = .writeTrack) : GoesOn s t := by
  unfold writeTrackData at h
  split at h
  · cases h
    exact terminate_goesOn s hc rfl
  · obtain ⟨-, -, h⟩ := withHead_next h
    exact (writeTrackByte_goesOn h hc).of_worked Worked.ofFdc

theorem writeTrackIndexHole_goesOn (h : writeTrackIndexHole s = .next t) (hc : s.fdc.command = .writeTrack) :
    GoesOn s t := by
  unfold writeTrackIndexHole at h
  split at h
  · exact (writeTrackData_goesOn h hc).of_worked Worked.ofFdc
  · exact waitBytes_goesOn h hc rfl

theorem writeTrackCRCLow_goesOn (h : writeTrackCRCLow s = .next t) (hc : s.fdc.command = .writeTrack) :
    GoesOn s t := by
  unfold writeTrackCRCLow at h
  split at h
  · cases h
    exact terminate_goesOn s hc rfl
  · obtain ⟨-, -, h⟩ := withHead_next h
    have w := trackWrite_worked (trackDataIndex s) s.fdc.crcLow false s
    generalize trackWrite (trackDataIndex s) s.fdc.crcLow false s = u at w h
    replace hc := w.command.trans hc
    exact (waitBytes_goesOn h hc rfl).of_worked (w.trans (Worked.ofFdc fun _ => .inr (by rw [hc]; rfl)))

theorem writeTrackAdvance_goesOn (h : writeTrackAdvance s = .next t) (hc : s.fdc.command = .writeTrack) :
    GoesOn s t := by
  unfold writeTrackAdvance at h
  cases ho : s.fdc.opStatus <;> simp only [ho] at h
  case prepare => exact writeTrackPrepare_goesOn h hc
  case delay => exact startSearch_goesOn h hc rfl
  case seekingIndexHole => exact writeTrackIndexHole_goesOn h hc
  case writingData => exact writeTrackData_goesOn h hc
  case writeCRCLow => exact writeTrackCRCLow_goesOn h hc
  all_goals cases h

/-! ## The dispatch -/

theorem commandAdvance_goesOn (h : commandAdvance s = .next t) : GoesOn s t := by
  unfold commandAdvance at h
  cases hc : s.fdc.command <;> simp only [hc] at h
  case restore => exact typeIAdvance_goesOn h hc (.inl rfl)
  case seek => exact typeIAdvance_goesOn h hc (.inr (.inl rfl))
  case step => exact typeIAdvance_goesOn h hc (.inr (.inr rfl))
  case readSector => exact readSectorAdvance_goesOn h hc
  case writeSector => exact writeSectorAdvance_goesOn h hc
  case readAddress => exact readAddressAdvance_goesOn h hc
  case readTrack => exact readTrackAdvance_goesOn h hc
  case writeTrack => exact writeTrackAdvance_goesOn h hc
  case reset | forceInterrupt | forceInterruptImmediate => cases h

/-- `FdcAdvance` completes the command in state `NMI`, does nothing in `OpDone`, and in every other state goes on (R241). -/
theorem fdcAdvance_next (h : fdcAdvance s = .next t) :
    (s.fdc.opStatus = .nmi ∧ t = nmiState s) ∨ (s.fdc.opStatus = .opDone ∧ t = s) ∨ GoesOn s t := by
  unfold fdcAdvance at h
  split at h
  · rename_i ho
    cases h
    exact .inl ⟨ho, rfl⟩
  · rename_i ho
    cases h
    exact .inr (.inl ⟨ho, rfl⟩)
  · exact .inr (.inr (commandAdvance_goesOn h))

/-! ## The callbacks that run the sequencer -/

theorem runCallback_fdcAdvance (s : State) : runCallback .fdcAdvance s = fdcAdvance s := rfl

theorem runCallback_poll (s : State) : runCallback .poll s = poll s := rfl

/-- Polling is over: the state in which `Poll` runs its continuation (40_clock_scheduler.md R153). -/
def stopPolling (s : State) : State := { s with fdc.isPolling := false, fdc.nextCallback := none }

theorem stopPolling_fdc (s : State) :
    (stopPolling s).fdc = { s.fdc with isPolling := false, nextCallback := none } := rfl

theorem stopPolling_worked (s : State) : Worked s (stopPolling s) := Worked.ofFdc

/-- `Poll` notes a missed target and goes on as the continuation (R153). -/
theorem poll_eq (s : State) : poll s = fdcAdvance (stopPolling (noteSync s)) := rfl

theorem noteSync_fdc (s : State) : (noteSync s).fdc = s.fdc := by
  unfold noteSync
  split <;> rfl

end

end Sys2Proof.Machine
end

section
/-! SUPPORT. What the cassette can do, said once: it rewrites its own registers and the edge latches, and drops or registers its
own request (41_cassette.md); and it keeps its invariant (10_state.md R42, R46). -/

namespace Sys2Proof.Machine

/-! ## The invariants of the scheduler under one registration or expiry -/

section

variable {s : State}

theorem RequestsInv.expire (h : RequestsInv s) (q : RequestId) : RequestsInv (expire q s) := by
  cases q with
  | command => exact { h with command := nofun }
  | motorOn => exact { h with motorOn := nofun }
  | motorOff => exact { h with motorOff := nofun }
  | read => exact { h with read := nofun }

/-- A request still active after an expiry is another one, and stands as before. -/
theorem expire_active {q p : RequestId} (h : ((expire q s).sched.get p).active = true) :
    (expire q s).sched.get p = s.sched.get p := by
  rw [expire_get] at h ⊢
  split at h
  · cases h
  · exact if_neg ‹_›

theorem ClockInv.expire (h : ClockInv s) (q : RequestId) : ClockInv (expire q s) where
  width := h.width
  notLate p hp := by
    have hs := expire_active hp
    rw [hs] at hp ⊢
    exact h.notLate p hp
  numbered p hp := by
    have hs := expire_active hp
    rw [hs] at hp ⊢
    exact expire_nextSeq s q ▸ h.numbered p hp

/-- A request registered aims at now or later, under the next registration number (R134). -/
theorem ClockInv.register (h : ClockInv s) (q : RequestId) (b : Basis) (n : Nat) (cb : Callback) :
    ClockInv (register q b n cb s) where
  width := h.width
  notLate p hp := by
    rw [register_get] at hp ⊢
    split
    · simp only [register_tickCount]; omega
    · rw [if_neg ‹_›] at hp; exact h.notLate p hp
  numbered p hp := by
    rw [register_nextSeq, register_get] at *
    split
    · exact Nat.lt_succ_self _
    · rw [if_neg ‹_›] at hp; exact Nat.lt_succ_of_lt (h.numbered p hp)

end

/-! ## The frame of the cassette -/

/-- The state `t` differs from `s` by cassette work only: configuration, clock, FDC, drives and the FDC's three requests stand,
and the requests stay sound. -/
structure DeckWorked (s t : State) : Prop where
  params : t.params = s.params
  tickCount : t.tickCount = s.tickCount
  fdc : t.fdc = s.fdc
  drives : t.drives = s.drives
  others : ∀ q, q ≠ .read → t.sched.get q = s.sched.get q
  requests : RequestsInv s → RequestsInv t
  clock : ClockInv s → ClockInv t

section

variable {s t u : State}

theorem DeckWorked.refl (s : State) : DeckWorked s s := ⟨rfl, rfl, rfl, rfl, fun _ _ => rfl, id, id⟩

theorem DeckWorked.trans (a : DeckWorked s t) (b : DeckWorked t u) : DeckWorked s u where
  params := b.params.trans a.params
  tickCount := b.tickCount.trans a.tickCount
  fdc := b.fdc.trans a.fdc
  drives := b.drives.trans a.drives
  others q hq := (b.others q hq).trans (a.others q hq)
  requests h := b.requests (a.requests h)
  clock h := b.clock (a.clock h)

/-- The cassette's registers and the latches rewritten. -/
theorem DeckWorked.ofCas {c : Cassette} {l : Latches} : DeckWorked s { s with cas := c, latches := l } where
  params := rfl
  tickCount := rfl
  fdc := rfl
  drives := rfl
  others _ _ := rfl
  requests h := { h with }
  clock h := { h with }

theorem expireRead_deckWorked (s : State) : DeckWorked s (expire .read s) where
  params := rfl
  tickCount := rfl
  fdc := rfl
  drives := rfl
  others q hq := by rw [expire_get, if_neg hq]
  requests h := h.expire .read
  clock h := h.expire .read

theorem registerRead_deckWorked (b : Basis) (n : Nat) (s : State) :
    DeckWorked s (register .read b n .cassetteReadCallback s) where
  params := rfl
  tickCount := rfl
  fdc := rfl
  drives := rfl
  others q hq := by rw [register_get, if_neg hq]
  requests h := { h with read := fun _ => rfl }
  clock h := h.register .read b n _

/-! ## Motor off and the cursor -/

theorem motorTurnsOff_deckWorked (s : State) : DeckWorked s (motorTurnsOff s) :=
  DeckWorked.ofCas.trans (expireRead_deckWorked _)

theorem stopTape_deckWorked (s : State) : DeckWorked s (stopTape s) := by
  have w : DeckWorked s { s with cas.motorEngaged := false, cas.recordInvoked := false } := .ofCas
  unfold stopTape
  dsimp only
  split
  · exact w.trans (motorTurnsOff_deckWorked _)
  · exact w

theorem advanceCursor_deckWorked (w : Bool) (s : State) : DeckWorked s (advanceCursor w s) := by
  obtain ⟨-, h⟩ | ⟨-, -, h⟩ | ⟨-, -, -, -, h⟩ | ⟨-, -, h⟩ := advanceCursor_cases w s <;> rw [h]
  · exact .ofCas
  · exact .ofCas
  · exact .ofCas
  · exact DeckWorked.ofCas.trans (stopTape_deckWorked _)

/-! ## The read path -/

theorem startBit_deckWorked (s : State) : DeckWorked s (startBit s) := by
  have w := advanceCursor_deckWorked false s
  unfold startBit
  dsimp only
  split
  · exact w
  · exact w.trans .ofCas

theorem nextPhase_deckWorked (s : State) : DeckWorked s (nextPhase s) := by
  unfold nextPhase
  split
  · exact .refl s
  · split
    · exact .ofCas
    · exact startBit_deckWorked s

theorem runPhases_deckWorked (fuel : Nat) (s : State) : DeckWorked s (runPhases fuel s) := by
  induction fuel generalizing s with
  | zero => exact .refl s
  | succ fuel ih =>
    unfold runPhases
    split
    · exact .refl s
    · split
      · exact (nextPhase_deckWorked s).trans (ih _)
      · exact .refl s

theorem armRead_deckWorked (s : State) : DeckWorked s (armRead s) := by
  unfold armRead
  split
  · exact .refl s
  · exact registerRead_deckWorked _ _ s

theorem startRead_deckWorked (s : State) : DeckWorked s (startRead s) := by
  have w : DeckWorked s { s with cas.transition := some (freshTransition s.tickCount) } := .ofCas
  exact (w.trans (nextPhase_deckWorked _)).trans (armRead_deckWorked _)

theorem cassetteReadCallback_deckWorked (h : cassetteReadCallback s = .next t) : DeckWorked s t := by
  unfold cassetteReadCallback at h
  split at h
  · cases h
    exact .refl s
  · rename_i tr _
    obtain ⟨-, h⟩ := withTape_next h
    cases h
    have w : DeckWorked s { s with cas.transition := some tr.clearFlipFlop } := .ofCas
    exact (w.trans (runPhases_deckWorked _ _)).trans (armRead_deckWorked _)

/-! ## Motor and deck -/

theorem updateMotor_deckWorked (h : updateMotor s = .next t) : DeckWorked s t := by
  obtain ⟨-, -, -, ⟨-, rfl⟩ | ⟨-, -, rfl⟩⟩ | ⟨-, -, rfl⟩ | ⟨-, rfl⟩ := updateMotor_next h
  · exact .ofCas
  · exact DeckWorked.ofCas.trans (startRead_deckWorked _)
  · exact motorTurnsOff_deckWorked s
  · exact .refl _

theorem setMotorSignal_deckWorked {b : Bool} (h : setMotorSignal b s = .next t) : DeckWorked s t :=
  DeckWorked.ofCas.trans (updateMotor_deckWorked h)

theorem play_deckWorked (h : play s = .next t) : DeckWorked s t :=
  DeckWorked.ofCas.trans (updateMotor_deckWorked (whileReleased_next h).2)

theorem record_deckWorked (h : record s = .next t) : DeckWorked s t :=
  DeckWorked.ofCas.trans (updateMotor_deckWorked (whileReleased_next h).2)

theorem rewind_deckWorked (h : rewind s = .next t) : DeckWorked s t := by
  obtain ⟨-, h⟩ := whileReleased_next h
  cases h
  exact .ofCas

/-- `InsertTape` is enabled with the motor released, and puts a well-formed tape in at its start (R188). -/
theorem insertTape_next {bytes : List Byte} (h : insertTape bytes s = .next t) :
    s.cas.motorEngaged = false ∧ 1 ≤ bytes.length ∧ bytes.length ≤ Config.maxTapeLength ∧
      t = { s with
        cas := rewound { s.cas with
          data := Memory.ofBytes bytes, isBlank := bytes.all (fun b => b == 0x00#8), changed := false } } := by
  obtain ⟨hm, h⟩ := whileReleased_next h
  split at h
  · rename_i hwf
    simp only [Input.wf, Bool.and_eq_true, decide_eq_true_eq] at hwf
    cases h
    exact ⟨hm, hwf.1, hwf.2, rfl⟩
  · cases h

theorem insertTape_deckWorked {bytes : List Byte} (h : insertTape bytes s = .next t) : DeckWorked s t := by
  obtain ⟨-, -, -, rfl⟩ := insertTape_next h
  exact .ofCas

/-! ## The write path -/

theorem writeBit_deckWorked (b : Bool) (s : State) : DeckWorked s (writeBit b s) :=
  DeckWorked.ofCas.trans (advanceCursor_deckWorked true _)

theorem highClass_deckWorked (n : Nat) (s : State) : DeckWorked s (highClass n s) :=
  DeckWorked.ofCas.trans (writeBit_deckWorked _ _)

theorem lowClass_deckWorked (n : Nat) (s : State) : DeckWorked s (lowClass n s) := by
  unfold lowClass
  dsimp only
  split
  · exact DeckWorked.ofCas.trans (writeBit_deckWorked _ _)
  · split
    · exact DeckWorked.ofCas.trans (writeBit_deckWorked _ _)
    · exact .ofCas

theorem positiveEdge_deckWorked (s : State) : DeckWorked s (positiveEdge s) := by
  have w : DeckWorked s (noteEdge s) := .ofCas
  unfold positiveEdge
  dsimp only
  split
  · exact w.trans (highClass_deckWorked _ _)
  · exact w.trans (lowClass_deckWorked _ _)
  · exact w

/-- A write of the cassette port changes nothing, notes a polarity, or on a positive edge while recording writes the tape
(R190). -/
theorem cassetteWrite_next {v : Byte} (h : cassetteWrite v s = .next t) :
    t = s ∨ t = { positiveEdge (dropFlipFlop s) with cas.lastWritePolarity := polarityOf v } ∨
      t = { dropFlipFlop s with cas.lastWritePolarity := polarityOf v } := by
  unfold cassetteWrite at h
  split at h
  · cases h
    exact .inl rfl
  · split at h
    · obtain ⟨-, h⟩ := withTape_next h
      cases h
      exact .inr (.inl rfl)
    · cases h
      exact .inr (.inr rfl)

theorem cassetteWrite_deckWorked {v : Byte} (h : cassetteWrite v s = .next t) : DeckWorked s t := by
  have w : DeckWorked s (dropFlipFlop s) := .ofCas
  obtain rfl | rfl | rfl := cassetteWrite_next h
  · exact .refl _
  · exact (w.trans (positiveEdge_deckWorked _)).trans .ofCas
  · exact w.trans .ofCas

end

end Sys2Proof.Machine
end

section
/-! SUPPORT. The cassette keeps its invariant: motor, cursor, tape, evidence and pending request (10_state.md R42, R46). -/

namespace Sys2Proof.Machine

section

variable {s t : State}

/-! ## Motor off and the cursor -/

theorem CassetteInv.stopTape (h : CassetteInv s) : CassetteInv (stopTape s) := by
  unfold Machine.stopTape
  dsimp only
  split
  · exact { h with motor := rfl, transition := nofun, readRequest := nofun }
  · rename_i hm
    exact { h with
      motor := Bool.eq_false_of_not_eq_true hm
      transition := fun ht => absurd (h.transition ht).1 hm }

/-- The header detector touches its two counters and the speed only (R180). -/
theorem leaveByte_frame (w : Bool) (c : Cassette) :
    ∃ sp fives zeros, leaveByte w c =
      { c with speed := sp, consecutiveFiftyFives := fives, consecutiveZeros := zeros } := by
  unfold leaveByte feedHeaderDetector
  split
  · exact ⟨_, _, _, rfl⟩
  · split
    · exact ⟨_, _, _, rfl⟩
    · split <;> exact ⟨_, _, _, rfl⟩

theorem CassetteInv.advanceCursor (h : CassetteInv s) (w : Bool) : CassetteInv (advanceCursor w s) := by
  obtain ⟨sp, fives, zeros, hl⟩ := leaveByte_frame w s.cas
  obtain ⟨-, he⟩ | ⟨-, hn, he⟩ | ⟨-, hn, -, hg, he⟩ | ⟨-, -, he⟩ := advanceCursor_cases w s <;> rw [he]
  · exact { h with bitCursor := (Nat.sub_le _ _).trans h.bitCursor }
  · rw [hl]
    exact { h with bitCursor := le_refl 7, byteCursor := hn }
  · exact { h with
      bitCursor := le_refl 7
      byteCursor := Nat.lt_of_le_of_lt h.byteCursor hg
      length := Nat.min_le_left _ _
      canonical := Memory.grow_wf hg.le h.canonical }
  · rw [hl]
    exact CassetteInv.stopTape { h with }

/-! ## The read path -/

/-- A running transition enters its next phase (R183). -/
theorem CassetteInv.enterPhase (h : CassetteInv s) {tr : Transition} (htr : s.cas.transition = some tr) (ph : Phase)
    (tr' : Transition) : CassetteInv (enterPhase ph tr' s) :=
  { h with
    transition := fun _ => h.transition (by rw [htr]; rfl)
    readRequest := fun _ => rfl }

theorem CassetteInv.startBit (h : CassetteInv s) : CassetteInv (startBit s) := by
  have ha := h.advanceCursor false
  unfold Machine.startBit
  dsimp only
  split
  · exact ha
  · exact ha.enterPhase ‹_› _ _

theorem CassetteInv.nextPhase (h : CassetteInv s) : CassetteInv (nextPhase s) := by
  unfold Machine.nextPhase
  split
  · exact h
  · split
    · exact h.enterPhase ‹_› _ _
    · exact h.startBit

theorem CassetteInv.runPhases (fuel : Nat) (h : CassetteInv s) : CassetteInv (runPhases fuel s) := by
  induction fuel generalizing s with
  | zero => exact h
  | succ fuel ih =>
    unfold Machine.runPhases
    split
    · exact h
    · split
      · exact ih h.nextPhase
      · exact h

theorem CassetteInv.armRead (h : CassetteInv s) : CassetteInv (armRead s) := by
  unfold Machine.armRead
  split
  · exact h
  · rename_i htr
    exact { h with readRequest := fun _ => by rw [register_cas, htr]; rfl }

theorem CassetteInv.cassetteReadCallback (h : CassetteInv s) (ht : cassetteReadCallback s = .next t) :
    CassetteInv t := by
  unfold Machine.cassetteReadCallback at ht
  split at ht
  · cases ht
    exact h
  · rename_i tr htr
    obtain ⟨-, ht⟩ := withTape_next ht
    cases ht
    have hc : CassetteInv { s with cas.transition := some tr.clearFlipFlop } :=
      { h with transition := fun _ => h.transition (by rw [htr]; rfl), readRequest := fun _ => rfl }
    exact (hc.runPhases _).armRead

/-! ## Motor and deck -/

/-- `UpdateMotor` brings `motor_on` in line after the deck or the signal changed; a running motor keeps its direction (R172). -/
theorem CassetteInv.updateMotor (h : CassetteInv s) {engaged signal recording : Bool}
    (hr : s.cas.motorOn = true → recording = s.cas.recordInvoked)
    (ht : updateMotor { s with
      cas.motorEngaged := engaged, cas.motorOnSignal := signal, cas.recordInvoked := recording } = .next t) :
    CassetteInv t := by
  obtain ⟨he, hs, hm, hrec⟩ | ⟨hoff, -, rfl⟩ | ⟨hsame, rfl⟩ := updateMotor_next ht
  · have he : engaged = true := he
    have hs : signal = true := hs
    have hm : s.cas.motorOn = false := hm
    subst he hs
    obtain ⟨-, rfl⟩ | ⟨hplay, -, rfl⟩ := hrec
    · exact { h with
        motor := rfl
        transition := fun htr => absurd (h.transition htr).1 (by rw [hm]; decide) }
    · refine (CassetteInv.nextPhase ?_).armRead
      exact { h with motor := rfl, transition := fun _ => ⟨rfl, hplay⟩, readRequest := fun _ => rfl }
  · exact { h with motor := hoff.symm, transition := nofun, readRequest := nofun }
  · exact { h with
      motor := hsame.symm
      transition := fun htr =>
        have hrun := h.transition htr
        ⟨hrun.1, (hr hrun.1).trans hrun.2⟩ }

/-- With the motor released the composite motor is off (R42). -/
theorem CassetteInv.motorOff (h : CassetteInv s) (hm : s.cas.motorEngaged = false) : s.cas.motorOn = false := by
  rw [h.motor, hm, Bool.false_and]

theorem CassetteInv.setMotorSignal (h : CassetteInv s) {b : Bool} (ht : setMotorSignal b s = .next t) :
    CassetteInv t :=
  h.updateMotor (fun _ => rfl) ht

theorem CassetteInv.play (h : CassetteInv s) (ht : play s = .next t) : CassetteInv t := by
  obtain ⟨hm, ht⟩ := whileReleased_next ht
  exact h.updateMotor (fun hon => absurd hon (by rw [h.motorOff hm]; decide)) ht

theorem CassetteInv.record (h : CassetteInv s) (ht : record s = .next t) : CassetteInv t := by
  obtain ⟨hm, ht⟩ := whileReleased_next ht
  exact h.updateMotor (fun hon => absurd hon (by rw [h.motorOff hm]; decide)) ht

theorem CassetteInv.rewind (h : CassetteInv s) (ht : rewind s = .next t) : CassetteInv t := by
  obtain ⟨-, ht⟩ := whileReleased_next ht
  cases ht
  exact { h with bitCursor := le_refl 7, byteCursor := Nat.zero_lt_of_lt h.byteCursor }

/-- A tape of zero bytes lists no cell (R46). -/
theorem cellsFrom_blank {bytes : List Byte} (h : bytes.all (fun b => b == 0x00#8) = true) (k : Nat) :
    cellsFrom k bytes = [] := by
  induction bytes generalizing k with
  | nil => rfl
  | cons b rest ih =>
    simp only [List.all_cons, Bool.and_eq_true, beq_iff_eq] at h
    obtain ⟨hb, hrest⟩ := h
    rw [cellsFrom, hb, unlistedByte, if_pos rfl]
    exact ih hrest (k + 1)

theorem CassetteInv.insertTape (h : CassetteInv s) {bytes : List Byte} (ht : insertTape bytes s = .next t) :
    CassetteInv t := by
  obtain ⟨-, hpos, hcap, rfl⟩ := insertTape_next ht
  exact { h with
    bitCursor := le_refl 7
    byteCursor := hpos
    length := hcap
    canonical := Memory.ofBytes_wf bytes
    blank := fun hb => cellsFrom_blank hb 0 }

/-! ## The write path -/

/-- A 0 bit written on a blank tape leaves it blank (R195). -/
theorem write_zeroBit_blank {m : Memory} (h : m.cells = []) (i k : Nat) :
    (m.write i (setBit (m.byteAt i) k false)).cells = [] := by
  have hz : setBit (m.byteAt i) k false = unlistedByte := by
    simp [setBit, Memory.byteAt, h, cellRead, unlistedByte]
  rw [hz]
  unfold Memory.write
  split
  · simp [h, cellWrite]
  · exact h

theorem CassetteInv.writeBit (h : CassetteInv s) (value : Bool) : CassetteInv (writeBit value s) := by
  refine CassetteInv.advanceCursor ?_ true
  exact { h with
    byteCursor := by rw [Memory.write_size]; exact h.byteCursor
    length := by rw [Memory.write_size]; exact h.length
    canonical := Memory.write_wf _ _ h.canonical
    blank := fun hb => by
      simp only [Bool.and_eq_true, Bool.not_eq_true'] at hb
      rw [hb.2]
      exact write_zeroBit_blank (h.blank hb.1) _ _ }

/-- Evidence saturates at 16 and at -16 (R192, R193). -/
theorem evidence_counted {e : Int} (h : -16 ≤ e ∧ e ≤ 16) :
    (-16 ≤ min Config.evidenceMax (e + 1) ∧ min Config.evidenceMax (e + 1) ≤ 16) ∧
      (-16 ≤ max (-Config.evidenceMax) (e - 1) ∧ max (-Config.evidenceMax) (e - 1) ≤ 16) := by
  unfold Config.evidenceMax
  omega

theorem CassetteInv.highClass (h : CassetteInv s) (n : Nat) : CassetteInv (highClass n s) := by
  refine CassetteInv.writeBit ?_ _
  exact { h with evidence := (evidence_counted h.evidence).1 }

theorem CassetteInv.lowClass (h : CassetteInv s) (n : Nat) : CassetteInv (lowClass n s) := by
  have hc : CassetteInv { s with cas := countLow s.cas } := { h with evidence := (evidence_counted h.evidence).2 }
  unfold Machine.lowClass
  dsimp only
  split
  · refine CassetteInv.writeBit ?_ true
    exact { hc with }
  · split
    · exact hc.writeBit false
    · exact { hc with }

theorem CassetteInv.positiveEdge (h : CassetteInv s) : CassetteInv (positiveEdge s) := by
  have hn : CassetteInv (noteEdge s) := { h with }
  unfold Machine.positiveEdge
  dsimp only
  split
  · exact hn.highClass _
  · exact hn.lowClass _
  · exact hn

/-- A transition rewritten in place is present exactly where it was. -/
theorem CassetteInv.mapTransition (h : CassetteInv s) (f : Transition → Transition) :
    CassetteInv { s with cas.transition := s.cas.transition.map f } :=
  { h with
    transition := fun ht => h.transition (by simpa using ht)
    readRequest := fun ha => by simpa using h.readRequest ha }

theorem CassetteInv.cassetteWrite (h : CassetteInv s) {v : Byte} (ht : cassetteWrite v s = .next t) :
    CassetteInv t := by
  have hd : CassetteInv (dropFlipFlop s) := h.mapTransition _
  obtain rfl | rfl | rfl := cassetteWrite_next ht
  · exact h
  · exact { hd.positiveEdge with }
  · exact { hd with }

end

end Sys2Proof.Machine
end

section
/-! SUPPORT. The invariant of the whole machine under the FDC's runs, the ports and the environment's steps. -/

namespace Sys2Proof.Machine

section

variable {s t u : State}

/-! ## What each part of the invariant reads -/

theorem ClockInv.congr (h : ClockInv s) (hk : t.tickCount = s.tickCount) (hs : t.sched = s.sched)
    (hp : t.params = s.params) : ClockInv t where
  width := hk ▸ h.width
  notLate q hq := by rw [hk, hs, hp] at *; exact h.notLate q hq
  numbered q hq := by rw [hs] at *; exact h.numbered q hq

theorem FdcInv.congr (h : FdcInv s) (hf : t.fdc = s.fdc) (hc : t.sched.command = s.sched.command)
    (hd : t.drives = s.drives) : FdcInv t where
  busyIff := hf ▸ h.busyIff
  requestBusy := by rw [hf, hc]; exact h.requestBusy
  busyRequest := by rw [hf, hc]; exact h.busyRequest
  drqTransfer := hf ▸ h.drqTransfer
  tracks := hd ▸ h.tracks
  polling := by rw [hf, hc]; exact h.polling
  continuation := hf ▸ h.continuation
  dispatch := hf ▸ h.dispatch

theorem CassetteInv.congr (h : CassetteInv s) (hc : t.cas = s.cas)
    (hr : t.sched.read.active = true → s.sched.read.active = true) : CassetteInv t where
  bitCursor := hc ▸ h.bitCursor
  byteCursor := hc ▸ h.byteCursor
  length := hc ▸ h.length
  canonical := hc ▸ h.canonical
  motor := hc ▸ h.motor
  blank := hc ▸ h.blank
  evidence := hc ▸ h.evidence
  transition := hc ▸ h.transition
  readRequest ha := hc ▸ h.readRequest (hr ha)

/-- The invariant reads neither latches nor outputs nor the model's own counters and lists. -/
theorem Inv.unread (h : Inv s) (l : Latches) (n : Nat) (i : List Input) (o : List Output) :
    Inv { s with latches := l, draws := n, inputs := i, outputs := o } where
  requests := { h.requests with }
  clock := { h.clock with }
  fdc := { h.fdc with }
  cassette := { h.cassette with }
  media := h.media

theorem Inv.emit (h : Inv s) (e : Output) : Inv (emit e s) := h.unread _ _ _ _

theorem Inv.latch (h : Inv s) (l : Latch) : Inv (latch l s) := h.unread _ _ _ _

theorem Inv.unlatch (h : Inv s) (l : Latch) : Inv (unlatch l s) := h.unread _ _ _ _

theorem Inv.beginStep (h : Inv s) (rest : List Input) : Inv (beginStep rest s) := h.unread _ _ _ _

/-- The FDC's registers rewritten beside the sequencer: command, sequencer and poll state stand, and `drq` at most falls. -/
theorem Inv.withFdc (h : Inv s) {f : Fdc} (hd : f.drq = true → s.fdc.drq = true := by exact id)
    (hb : f.busy = s.fdc.busy := by rfl) (hc : f.command = s.fdc.command := by rfl)
    (ho : f.opStatus = s.fdc.opStatus := by rfl) (hp : f.isPolling = s.fdc.isPolling := by rfl)
    (hn : f.nextCallback = s.fdc.nextCallback := by rfl) : Inv { s with fdc := f } where
  requests := { h.requests with command := hp ▸ h.requests.command }
  clock := { h.clock with }
  fdc :=
    { busyIff := by rw [hb, ho]; exact h.fdc.busyIff
      requestBusy := hb ▸ h.fdc.requestBusy
      busyRequest := hb ▸ h.fdc.busyRequest
      drqTransfer := fun hf => by rw [hb, hc]; exact h.fdc.drqTransfer (hd hf)
      tracks := h.fdc.tracks
      polling := hp ▸ h.fdc.polling
      continuation := by rw [hn, hp]; exact h.fdc.continuation
      dispatch := by rw [hb, hc, ho]; exact h.fdc.dispatch }
  cassette := { h.cassette with }
  media := h.media

/-- A request other than the command's is taken or dropped. -/
theorem Inv.expire (h : Inv s) {q : RequestId} (hq : q ≠ .command) : Inv (expire q s) where
  requests := h.requests.expire q
  clock := h.clock.expire q
  fdc := h.fdc.congr rfl ((expire_get s q .command).trans (if_neg hq.symm)) rfl
  cassette := h.cassette.congr rfl fun ha => congrArg PulseReq.active (expire_active (p := .read) ha) ▸ ha
  media := h.media

theorem Inv.registerMotorOn (h : Inv s) (b : Basis) (n : Nat) : Inv (register .motorOn b n .motorOnCallback s) where
  requests := { h.requests with motorOn := fun _ => rfl }
  clock := h.clock.register _ b n _
  fdc := { h.fdc with }
  cassette := { h.cassette with }
  media := h.media

theorem Inv.registerMotorOff (h : Inv s) (b : Basis) (n : Nat) :
    Inv (register .motorOff b n .motorOffCallback s) where
  requests := { h.requests with motorOff := fun _ => rfl }
  clock := h.clock.register _ b n _
  fdc := { h.fdc with }
  cassette := { h.cassette with }
  media := h.media

/-- Cassette work that keeps the cassette's own invariant keeps all of them. -/
theorem Inv.ofDeck (h : Inv s) (w : DeckWorked s t) (hc : CassetteInv s → CassetteInv t) : Inv t where
  requests := w.requests h.requests
  clock := w.clock h.clock
  fdc := h.fdc.congr w.fdc (w.others .command nofun) w.drives
  cassette := hc h.cassette
  media d := w.drives ▸ h.media d

/-! ## A run of the sequencer -/

/-- A state in which the sequencer is about to run: a command in progress whose request is taken and which does not poll, and
every other part of the machine sound. -/
structure Running (s : State) : Prop where
  requests : RequestsInv s
  clock : ClockInv s
  cassette : CassetteInv s
  media : MediaInv s
  tracks : ∀ d, (s.drives.get d).physicalTrack ≤ Config.maxTracks
  taken : s.sched.command.active ≠ true
  busy : s.fdc.busy = true
  transfer : s.fdc.drq = true → s.fdc.command.transfers = true
  notPolling : s.fdc.isPolling = false
  noContinuation : s.fdc.nextCallback = none
  started : s.fdc.opStatus ≠ .opDone

/-- No command stands at `OpDone` in the table of R241. -/
theorem ne_opDone_of_dispatchHolds {c : Command} {st : OpStatus} (h : dispatchHolds c st = true) : st ≠ .opDone := by
  rintro rfl
  cases c <;> cases h

/-- Work and then a wait, for a time or with a poll for a byte: the invariant holds again. -/
theorem Running.armed (h : Running s) (w : Worked s u) {st : OpStatus} (hd : dispatchHolds s.fdc.command st = true)
    (b : Basis) (n : Nat) (p : Bool) (target : Nat) :
    Inv (register .command b n (if p then .poll else .fdcAdvance)
      { expire .command u with
        fdc := { u.fdc with
          isPolling := p, nextCallback := if p then some .fdcAdvance else none, opStatus := st
          targetDataIndex := target } }) where
  requests :=
    { command := fun _ => rfl
      motorOn := (w.sched ▸ h.requests.motorOn :
        u.sched.motorOn.active = true → u.sched.motorOn.callback = .motorOnCallback)
      motorOff := (w.sched ▸ h.requests.motorOff :
        u.sched.motorOff.active = true → u.sched.motorOff.callback = .motorOffCallback)
      read := (w.sched ▸ h.requests.read :
        u.sched.read.active = true → u.sched.read.callback = .cassetteReadCallback) }
  clock :=
    have hu : ClockInv u := h.clock.congr w.tickCount w.sched w.params
    ClockInv.register (by exact (hu.expire .command).congr rfl rfl rfl) _ _ _ _
  fdc :=
    have hb : u.fdc.busy = true := w.busy.trans h.busy
    { busyIff := ⟨fun _ => ne_opDone_of_dispatchHolds hd, fun _ => hb⟩
      requestBusy := fun _ => hb
      busyRequest := fun _ => rfl
      drqTransfer := fun hq => ⟨hb, w.command ▸ (w.drq hq).elim h.transfer id⟩
      tracks := w.heads h.tracks
      polling := fun hp => ⟨rfl, if_pos hp⟩
      continuation := rfl
      dispatch := fun _ => w.command ▸ hd }
  cassette := h.cassette.congr w.cas fun ha =>
    (w.sched ▸ ha : s.sched.read.active = true)
  media := w.media h.media

theorem Running.goesOn (h : Running s) (hg : GoesOn s t) : Inv t := by
  obtain ⟨u, st, w, hd, ⟨us, rfl⟩ | ⟨n, rfl⟩⟩ := hg
  · exact h.armed w hd .microseconds us false u.fdc.targetDataIndex
  · exact h.armed w hd .ticks (byteWaitDelay (byteWaitTarget n u) u) true (byteWaitTarget n u)

/-- State `NMI` ends the command: nothing is busy and nothing is pending (60_exceptions.md R443). -/
theorem Running.nmiState (h : Running s) : Inv (nmiState s) where
  requests := { h.requests with command := fun ha => absurd ha h.taken }
  clock := { h.clock with }
  fdc :=
    { busyIff := ⟨nofun, fun ho => absurd rfl ho⟩
      requestBusy := fun ha => absurd ha h.taken
      busyRequest := nofun
      drqTransfer := nofun
      tracks := h.tracks
      polling := fun hp => absurd hp (by rw [nmiState_fdc, h.notPolling]; decide)
      continuation := by rw [nmiState_fdc, h.noContinuation, h.notPolling]; rfl
      dispatch := nofun }
  cassette := { h.cassette with }
  media := h.media

theorem Running.fdcAdvance (h : Running s) (ht : fdcAdvance s = .next t) : Inv t := by
  obtain ⟨-, rfl⟩ | ⟨ho, -⟩ | hg := fdcAdvance_next ht
  · exact h.nmiState
  · exact absurd ho h.started
  · exact h.goesOn hg

/-- The command request taken with polling off: the sequencer is about to run. -/
theorem Inv.running (h : Inv s) (ha : s.sched.command.active = true) (w : Worked (Machine.expire .command s) u)
    (ho : u.fdc.opStatus = s.fdc.opStatus) (hp : u.fdc.isPolling = false) (hn : u.fdc.nextCallback = none) :
    Running u := by
  have hr := h.requests.expire .command
  have htaken : u.sched.command.active ≠ true := by
    rw [w.sched]
    exact Bool.false_ne_true
  have hbusy := h.fdc.requestBusy ha
  exact
    { requests :=
        { command := fun hu => absurd hu htaken
          motorOn := w.sched ▸ hr.motorOn
          motorOff := w.sched ▸ hr.motorOff
          read := w.sched ▸ hr.read }
      clock := (h.clock.expire .command).congr w.tickCount w.sched w.params
      cassette := h.cassette.congr w.cas fun hu => (w.sched ▸ hu : (Machine.expire .command s).sched.read.active = true)
      media := w.media h.media
      tracks := w.heads h.fdc.tracks
      taken := htaken
      busy := w.busy.trans hbusy
      transfer := fun hq => w.command ▸ (w.drq hq).elim (fun hd => (h.fdc.drqTransfer hd).2) id
      notPolling := hp
      noContinuation := hn
      started := ho ▸ h.fdc.busyIff.mp hbusy }

/-! ## Firing -/

theorem foldl_earlier_mem {qs : List RequestId} {best : Option RequestId} {q : RequestId}
    (h : qs.foldl (earlier s) best = some q) : best = some q ∨ q ∈ qs := by
  induction qs generalizing best with
  | nil => exact .inl h
  | cons p rest ih =>
    obtain hb | hm := ih h
    · unfold earlier at hb
      split at hb
      · cases hb
        exact .inr List.mem_cons_self
      · split at hb
        · cases hb
          exact .inr List.mem_cons_self
        · exact .inl hb
    · exact .inr (List.mem_cons_of_mem p hm)

/-- The request that `Fire` takes is active (40_clock_scheduler.md R140, R141). -/
theorem nextDue_active {q : RequestId} (h : nextDue s = some q) : (s.sched.get q).active = true := by
  obtain h | h := foldl_earlier_mem h
  · cases h
  · have hd := (List.mem_filter.mp h).2
    simp only [due, Bool.and_eq_true] at hd
    exact hd.1

theorem Inv.motorOnCallback (h : Inv s) : Inv (motorOnCallback s) := by
  have hm : Inv { s with fdc.motorOn := true } := h.withFdc
  exact (hm.emit _).registerMotorOff _ _

theorem Inv.motorOffCallback (h : Inv s) : Inv (motorOffCallback s) := by
  have hm : Inv { s with fdc.motorOn := false } := h.withFdc
  exact (hm.emit _).latch _

theorem Inv.poll (h : Inv s) (ha : s.sched.command.active = true) (ht : poll (Machine.expire .command s) = .next t) :
    Inv t := by
  rw [poll_eq] at ht
  have w := (noteSync_worked (Machine.expire .command s)).trans (stopPolling_worked _)
  have hf := stopPolling_fdc (noteSync (Machine.expire .command s))
  rw [noteSync_fdc] at hf
  exact (h.running ha w (by rw [hf]; rfl) (by rw [hf]) (by rw [hf])).fdcAdvance ht

theorem Inv.fireCommand (h : Inv s) (ha : s.sched.command.active = true)
    (ht : runCallback s.sched.command.callback (Machine.expire .command s) = .next t) : Inv t := by
  rw [h.requests.command ha] at ht
  have hn := h.fdc.continuation
  cases hp : s.fdc.isPolling with
  | false =>
    rw [hp, if_neg Bool.false_ne_true] at ht hn
    rw [runCallback_fdcAdvance] at ht
    exact (h.running ha (Worked.refl _) rfl hp hn).fdcAdvance ht
  | true =>
    rw [hp, if_pos rfl, runCallback_poll] at ht
    exact h.poll ha ht

theorem Inv.fire (h : Inv s) (ht : fire s = .next t) : Inv t := by
  obtain ⟨q, hq, ht⟩ := fire_next ht
  have ha := nextDue_active hq
  cases q with
  | command => exact h.fireCommand ha ht
  | motorOn =>
    rw [show (s.sched.get .motorOn).callback = _ from h.requests.motorOn ha] at ht
    cases ht
    exact (h.expire (q := .motorOn) nofun).motorOnCallback
  | motorOff =>
    rw [show (s.sched.get .motorOff).callback = _ from h.requests.motorOff ha] at ht
    cases ht
    exact (h.expire (q := .motorOff) nofun).motorOffCallback
  | read =>
    rw [show (s.sched.get .read).callback = _ from h.requests.read ha] at ht
    exact (h.expire (q := .read) nofun).ofDeck (cassetteReadCallback_deckWorked ht) fun hc => hc.cassetteReadCallback ht

/-! ## Commands -/

/-- The write of a command byte: ignored by a disabled FDC, started by an idle one, or an abort (R230, R240, R401). -/
theorem exec_next {i : Instr} (h : exec i s = .next t) :
    t = s ∨
    (s.fdc.busy = false ∧ ∃ v c, fdcAdvance (acceptCommand v c s) = .next t) ∨
    (∃ v c, t = { abortCommand v c s with fdc.busy := false, fdc.drq := false }) ∨
    ∃ v c, t = doNmi (abortCommand v c s) := by
  have start {v : Byte} {c : Command} (h : startCommand v c s = .next t) :
      t = s ∨ (s.fdc.busy = false ∧ ∃ v c, fdcAdvance (acceptCommand v c s) = .next t) :=
    (startCommand_next h).imp And.right fun ⟨_, hb, h⟩ => ⟨hb, _, _, h⟩
  have abort {v : Byte} {c : Command} (h : writeForceInterrupt v c s = .next t) :
      t = s ∨ ∃ v c, t = doNmi (abortCommand v c s) := by
    unfold writeForceInterrupt at h
    split at h <;> cases h
    · exact .inl rfl
    · exact .inr ⟨_, _, rfl⟩
  cases i with
  | restore | seek | step | stepIn | stepOut | rdsec | wrsec | rdaddr | rdtrk | wrtrk =>
    exact (start h).imp_right .inl
  | forceintD1 | forceintD2 | forceintD4 | forceintimm | forceintD9 | forceintDA | forceintDC =>
    exact (abort h).imp_right fun h => .inr (.inr h)
  | reset =>
    replace h : writeReset _ s = .next t := h
    unfold writeReset at h
    split at h <;> cases h
    · exact .inl rfl
    · exact .inr (.inr (.inl ⟨_, _, rfl⟩))

/-- A command that starts takes an idle FDC, which has no request pending and does not poll (R240). -/
theorem Inv.accepted (h : Inv s) (hb : s.fdc.busy = false) (v : Byte) (c : Command) :
    Running (acceptCommand v c s) :=
  have hidle : s.sched.command.active ≠ true := fun ha => absurd (h.fdc.requestBusy ha) (by rw [hb]; decide)
  have hpoll : s.fdc.isPolling = false := Bool.eq_false_of_not_eq_true fun hp => hidle (h.fdc.polling hp).1
  { requests := { h.requests with }
    clock := { h.clock with }
    cassette := { h.cassette with }
    media := h.media
    tracks := h.fdc.tracks
    taken := hidle
    busy := rfl
    transfer := nofun
    notPolling := hpoll
    noContinuation := by rw [acceptCommand_fdc]; exact h.fdc.continuation.trans (by rw [hpoll]; rfl)
    started := nofun }

/-- A Type IV byte leaves the FDC idle with nothing pending (R401). -/
theorem Inv.aborted (h : Inv s) (v : Byte) (c : Command) :
    Inv { abortCommand v c s with fdc.busy := false, fdc.drq := false } where
  requests := { h.requests with command := nofun }
  clock := { h.clock.expire .command with }
  fdc :=
    { busyIff := ⟨nofun, fun ho => absurd rfl ho⟩
      requestBusy := nofun
      busyRequest := nofun
      drqTransfer := nofun
      tracks := h.fdc.tracks
      polling := nofun
      continuation := rfl
      dispatch := nofun }
  cassette := { h.cassette with }
  media := h.media

theorem Inv.exec (h : Inv s) {i : Instr} (ht : exec i s = .next t) : Inv t := by
  obtain rfl | ⟨hb, v, c, ht⟩ | ⟨v, c, rfl⟩ | ⟨v, c, rfl⟩ := exec_next ht
  · exact h
  · exact (h.accepted hb v c).fdcAdvance ht
  · exact h.aborted v c
  · exact (h.aborted v c).latch .fdcNmi

/-! ## Ports -/

/-- What a port write can do (20_memory.md R62): a command byte, a register, a drive select, the byte of the interrupt manager,
or the cassette; a disabled FDC ignores its own. -/
theorem portOut_next {p v : Byte} (h : portOut p v s = .next t) :
    t = s ∨ (∃ i, exec i s = .next t) ∨ t = { s with fdc.trackRegister := v } ∨ t = { s with fdc.sectorRegister := v } ∨
      t = { s with fdc.dataRegister := v, fdc.drq := false } ∨ t = selectDrive v s ∨
      t = emit (.interruptEnable p v) s ∨ cassetteWrite v s = .next t := by
  unfold portOut at h
  split_ifs at h
  · unfold writeCommandPort at h
    split at h
    · exact .inr (.inl ⟨_, h⟩)
    · cases h
  · obtain ⟨-, rfl⟩ | ⟨-, rfl⟩ := fdcWrite_next h <;> simp
  · obtain ⟨-, rfl⟩ | ⟨-, rfl⟩ := fdcWrite_next h <;> simp
  · obtain ⟨-, rfl⟩ | ⟨-, rfl⟩ := fdcWrite_next h <;> simp
  · obtain ⟨-, rfl⟩ | ⟨-, rfl⟩ := fdcWrite_next h <;> simp
  · cases h; simp
  · simp [h]

/-- What a port read can do beside its answer (R62): acknowledge `FdcNmi`, collect the data byte, or mark the flip-flop. -/
theorem portIn_next {p : Byte} (h : portIn p s = .next t) :
    ∃ e u, t = emit e u ∧
      (u = s ∨ u = acknowledgeNmi s ∨ u = { s with fdc.drq := false } ∨ u = afterCassetteRead s) := by
  unfold portIn at h
  split_ifs at h
  · obtain ⟨-, rfl⟩ | ⟨-, rfl⟩ := fdcRead_next h
    · exact ⟨_, _, rfl, .inr (.inl rfl)⟩
    · exact ⟨_, _, rfl, .inl rfl⟩
  · obtain ⟨-, rfl⟩ | ⟨-, rfl⟩ := fdcRead_next h <;> exact ⟨_, _, rfl, .inl rfl⟩
  · obtain ⟨-, rfl⟩ | ⟨-, rfl⟩ := fdcRead_next h <;> exact ⟨_, _, rfl, .inl rfl⟩
  · obtain ⟨-, rfl⟩ | ⟨-, rfl⟩ := fdcRead_next h
    · exact ⟨_, _, rfl, .inr (.inr (.inl rfl))⟩
    · exact ⟨_, _, rfl, .inl rfl⟩
  · cases h
    exact ⟨_, _, rfl, .inr (.inr (.inr rfl))⟩

theorem Inv.selectMotor (h : Inv s) : Inv (selectMotor s) := by
  unfold Machine.selectMotor
  split
  · exact h.registerMotorOff _ _
  · split
    · exact h
    · exact h.registerMotorOn _ _

theorem Inv.selectDrive (h : Inv s) (v : Byte) : Inv (selectDrive v s) := by
  have hs : Inv { s with
      fdc.currentDrive := selectedDrive v, fdc.sideOneSelected := bitAt v 4, fdc.doubleDensity := bitAt v 7 } :=
    h.withFdc
  unfold Machine.selectDrive
  dsimp only
  split
  · exact (hs.emit _).selectMotor
  · exact hs.selectMotor

theorem Inv.portOut (h : Inv s) {p v : Byte} (ht : portOut p v s = .next t) : Inv t := by
  obtain rfl | ⟨i, ht⟩ | rfl | rfl | rfl | rfl | rfl | ht := portOut_next ht
  · exact h
  · exact h.exec ht
  · exact h.withFdc
  · exact h.withFdc
  · exact h.withFdc nofun
  · exact h.selectDrive v
  · exact h.emit _
  · exact h.ofDeck (cassetteWrite_deckWorked ht) fun hc => hc.cassetteWrite ht

theorem Inv.portIn (h : Inv s) {p : Byte} (ht : portIn p s = .next t) : Inv t := by
  obtain ⟨e, u, rfl, rfl | rfl | rfl | rfl⟩ := portIn_next ht
  · exact h.emit e
  · exact (h.unlatch .fdcNmi).emit e
  · have hd : Inv { s with fdc.drq := false } := h.withFdc nofun
    exact hd.emit e
  · exact (h.ofDeck (t := afterCassetteRead s) .ofCas fun hc => hc.mapTransition _).emit e

/-! ## Clock, media and reset -/

theorem Inv.advance (h : Inv s) {d : Nat} (ht : advance d s = .next t) : Inv t := by
  obtain ⟨rfl, he, hw⟩ := advance_next ht
  exact
    { requests := { h.requests with }
      clock :=
        { width := hw
          notLate := fun q hq => (((advanceEnabled_iff s d).mp he).2 q hq).2
          numbered := h.clock.numbered }
      fdc := { h.fdc with }
      cassette := { h.cassette with }
      media := h.media }

/-- A media change puts a well-formed disk or none into one drive, whose head stays (R496). -/
theorem mediaChange_next {d : DriveId} {f : Option FloppyImage} {wp : Bool} (h : mediaChange d f wp s = .next t) :
    floppyWf f = true ∧
      t = { s with drives := s.drives.set d { s.drives.get d with floppy := f, writeProtected := wp } } := by
  unfold mediaChange at h
  split at h
  · cases h
    exact ⟨‹_›, rfl⟩
  · cases h

theorem Inv.mediaChange (h : Inv s) {d : DriveId} {f : Option FloppyImage} {wp : Bool}
    (ht : mediaChange d f wp s = .next t) : Inv t := by
  obtain ⟨hf, rfl⟩ := mediaChange_next ht
  exact
    { requests := { h.requests with }
      clock := { h.clock with }
      fdc := { h.fdc with
        tracks := fun k => by
          rw [Drives.get_set]
          split
          · exact h.fdc.tracks d
          · exact h.fdc.tracks k }
      cassette := { h.cassette with }
      media := fun k => by
        rw [Drives.get_set]
        split
        · exact hf
        · exact h.media k }

/-- The reset state is sound whatever the parameters are (R50). -/
theorem inv_resetWith (p : Config.Params) : Inv (State.resetWith p) where
  requests := ⟨nofun, nofun, nofun, nofun⟩
  clock :=
    { width := (by decide : 0 < Config.tickLimit)
      notLate := fun q => by cases q <;> exact nofun
      numbered := fun q => by cases q <;> exact nofun }
  fdc :=
    { busyIff := ⟨nofun, fun h => absurd rfl h⟩
      requestBusy := nofun
      busyRequest := nofun
      drqTransfer := nofun
      tracks := fun d => by cases d <;> exact Nat.zero_le _
      polling := nofun
      continuation := rfl
      dispatch := nofun }
  cassette :=
    { bitCursor := le_refl 7
      byteCursor := (by decide : 0 < Config.blankTapeLength)
      length := (by decide : Config.blankTapeLength ≤ Config.maxTapeLength)
      canonical := rfl
      motor := rfl
      blank := fun _ => rfl
      evidence := (by decide : (-16 : Int) ≤ 0 ∧ (0 : Int) ≤ 16)
      transition := nofun
      readRequest := nofun }
  media d := by cases d <;> rfl

theorem inv_platformReset (s : State) : Inv (platformReset s) := (inv_resetWith s.params).unread _ _ _ _

/-! ## The step -/

theorem Inv.perform (h : Inv s) {i : Input} (ht : perform i s = .next t) : Inv t := by
  cases i with
  | portOut p v => exact h.portOut ht
  | portIn p => exact h.portIn ht
  | fire => exact h.fire ht
  | advance d => exact h.advance ht
  | setMotorSignal b => exact h.ofDeck (setMotorSignal_deckWorked ht) fun hc => hc.setMotorSignal ht
  | play => exact h.ofDeck (play_deckWorked ht) fun hc => hc.play ht
  | record => exact h.ofDeck (record_deckWorked ht) fun hc => hc.record ht
  | stop => cases ht; exact h.ofDeck (stopTape_deckWorked s) CassetteInv.stopTape
  | rewind => exact h.ofDeck (rewind_deckWorked ht) fun hc => hc.rewind ht
  | insertTape bytes => exact h.ofDeck (insertTape_deckWorked ht) fun hc => hc.insertTape ht
  | unlatch l => cases ht; exact h.unlatch l
  | mediaChange d f wp => exact h.mediaChange ht
  | platformReset => cases ht; exact inv_platformReset s

/-- Every step performs one input: the oldest waiting one or, with none, a `Fire` or an `Advance` (assumption log 3). -/
theorem step_performs (h : step s = .next t) :
    ∃ i rest, perform i (beginStep rest s) = .next t ∧
      (s.inputs = i :: rest ∨ s.inputs = [] ∧ (i = .fire ∨ ∃ d, i = .advance d)) := by
  unfold step runStep at h
  split at h
  · rename_i hi
    unfold idle at h
    split at h
    · exact ⟨.fire, [], h, .inr ⟨hi, .inl rfl⟩⟩
    · exact ⟨.advance _, [], h, .inr ⟨hi, .inr ⟨_, rfl⟩⟩⟩
  · rename_i i rest hi
    exact ⟨i, rest, h, .inl hi⟩

end

/-- Settles O55: the invariant holds of the state the step acts on, and every input performed keeps it. -/
theorem invariantKept : Obligations.InvariantKept := by
  intro s t h ht
  obtain ⟨i, rest, ht, -⟩ := step_performs ht
  exact (h.beginStep rest).perform ht

end Sys2Proof.Machine
end

section
/-! SUPPORT. The configuration under every input: the parameters and `enabled` stand, but for the platform reset, which
sets `enabled` from the parameters (00_scope.md R8, 10_state.md R34, 60_exceptions.md R460); and the exact enabling of
`Advance`. -/

namespace Sys2Proof.Machine

/-- The parameters and `enabled` are the same in both states. -/
structure SameConfig (s t : State) : Prop where
  params : t.params = s.params
  enabled : t.fdc.enabled = s.fdc.enabled

section

variable {s t u : State}

theorem SameConfig.refl (s : State) : SameConfig s s := ⟨rfl, rfl⟩

theorem SameConfig.trans (a : SameConfig s u) (b : SameConfig u t) : SameConfig s t :=
  ⟨b.params.trans a.params, b.enabled.trans a.enabled⟩

theorem Worked.sameConfig (w : Worked s u) : SameConfig s u := ⟨w.params, w.enabled⟩

theorem DeckWorked.sameConfig (w : DeckWorked s t) : SameConfig s t := ⟨w.params, congrArg Fdc.enabled w.fdc⟩

theorem GoesOn.sameConfig (h : GoesOn s t) : SameConfig s t := by
  obtain ⟨u, st, w, -, ⟨us, rfl⟩ | ⟨n, rfl⟩⟩ := h
  · exact w.sameConfig.trans ⟨rfl, rfl⟩
  · exact w.sameConfig.trans ⟨rfl, rfl⟩

theorem fdcAdvance_sameConfig (h : fdcAdvance s = .next t) : SameConfig s t := by
  obtain ⟨-, rfl⟩ | ⟨-, rfl⟩ | h := fdcAdvance_next h
  · exact ⟨rfl, rfl⟩
  · exact .refl _
  · exact h.sameConfig

theorem runCallback_sameConfig {cb : Callback} (h : runCallback cb s = .next t) : SameConfig s t := by
  cases cb with
  | fdcAdvance => exact fdcAdvance_sameConfig h
  | poll =>
    rw [runCallback_poll, poll_eq] at h
    exact ((noteSync_worked s).trans (stopPolling_worked _)).sameConfig.trans (fdcAdvance_sameConfig h)
  | motorOnCallback | motorOffCallback =>
    cases h
    exact ⟨rfl, rfl⟩
  | cassetteReadCallback => exact (cassetteReadCallback_deckWorked h).sameConfig

theorem fire_sameConfig (h : fire s = .next t) : SameConfig s t := by
  obtain ⟨q, -, h⟩ := fire_next h
  exact SameConfig.trans (u := expire q s) ⟨rfl, rfl⟩ (runCallback_sameConfig h)

theorem exec_sameConfig {i : Instr} (h : exec i s = .next t) : SameConfig s t := by
  obtain rfl | ⟨-, v, c, h⟩ | ⟨v, c, rfl⟩ | ⟨v, c, rfl⟩ := exec_next h
  · exact .refl _
  · exact SameConfig.trans (u := acceptCommand v c s) ⟨rfl, rfl⟩ (fdcAdvance_sameConfig h)
  · exact ⟨rfl, rfl⟩
  · exact ⟨rfl, rfl⟩

theorem selectMotor_sameConfig (s : State) : SameConfig s (selectMotor s) := by
  unfold selectMotor
  split
  · exact ⟨rfl, rfl⟩
  · split <;> exact ⟨rfl, rfl⟩

theorem selectDrive_sameConfig (v : Byte) (s : State) : SameConfig s (selectDrive v s) := by
  unfold selectDrive
  refine SameConfig.trans ?_ (selectMotor_sameConfig _)
  split <;> exact ⟨rfl, rfl⟩

theorem portOut_sameConfig {p v : Byte} (h : portOut p v s = .next t) : SameConfig s t := by
  obtain rfl | ⟨i, h⟩ | rfl | rfl | rfl | rfl | rfl | h := portOut_next h
  · exact .refl _
  · exact exec_sameConfig h
  · exact ⟨rfl, rfl⟩
  · exact ⟨rfl, rfl⟩
  · exact ⟨rfl, rfl⟩
  · exact selectDrive_sameConfig v s
  · exact ⟨rfl, rfl⟩
  · exact (cassetteWrite_deckWorked h).sameConfig

/-- Every input but the platform reset keeps the configuration. -/
theorem perform_sameConfig {i : Input} (hi : i ≠ .platformReset) (h : perform i s = .next t) : SameConfig s t := by
  cases i with
  | portOut p v => exact portOut_sameConfig h
  | portIn p => obtain ⟨e, u, rfl, rfl | rfl | rfl | rfl⟩ := portIn_next h <;> exact ⟨rfl, rfl⟩
  | fire => exact fire_sameConfig h
  | advance d => obtain ⟨rfl, -, -⟩ := advance_next h; exact ⟨rfl, rfl⟩
  | setMotorSignal b => exact (setMotorSignal_deckWorked h).sameConfig
  | play => exact (play_deckWorked h).sameConfig
  | record => exact (record_deckWorked h).sameConfig
  | stop => cases h; exact (stopTape_deckWorked s).sameConfig
  | rewind => exact (rewind_deckWorked h).sameConfig
  | insertTape bytes => exact (insertTape_deckWorked h).sameConfig
  | unlatch l => cases h; exact ⟨rfl, rfl⟩
  | mediaChange d f wp => obtain ⟨-, rfl⟩ := mediaChange_next h; exact ⟨rfl, rfl⟩
  | platformReset => exact absurd rfl hi

theorem resetsNext_cons {i : Input} {rest : List Input} (h : s.inputs = i :: rest) :
    resetsNext s = true ↔ i = .platformReset := by
  simp [resetsNext, h]

theorem resetsNext_nil (h : s.inputs = []) : resetsNext s = false := by
  simp [resetsNext, h]

/-- A step that does not reset keeps the configuration. -/
theorem step_sameConfig (hr : resetsNext s = false) (h : step s = .next t) : SameConfig s t := by
  obtain ⟨i, rest, h, hi⟩ := step_performs h
  have hne : i ≠ .platformReset := by
    rintro rfl
    obtain hi | ⟨-, hi | ⟨d, hi⟩⟩ := hi
    · exact absurd ((resetsNext_cons hi).mpr rfl) (by rw [hr]; decide)
    · cases hi
    · cases hi
  exact SameConfig.trans (u := beginStep rest s) ⟨rfl, rfl⟩ (perform_sameConfig hne h)

/-- A step that resets is the platform reset of the state it acts on (70_reset_and_hazards.md R480). -/
theorem step_reset (hr : resetsNext s = true) (h : step s = .next t) :
    ∃ rest, t = platformReset (beginStep rest s) := by
  obtain ⟨i, rest, h, hi | ⟨hi, -⟩⟩ := step_performs h
  · obtain rfl := (resetsNext_cons hi).mp hr
    cases h
    exact ⟨rest, rfl⟩
  · exact absurd hr (by rw [resetsNext_nil hi]; decide)

end

/-- Settles O60: a step is the platform reset, or it keeps the configuration. -/
theorem configurationIsFixed : Obligations.ConfigurationIsFixed := by
  intro s t h
  cases hr : resetsNext s with
  | false =>
    obtain ⟨hp, he⟩ := step_sameConfig hr h
    exact ⟨hp, fun _ => he, nofun⟩
  | true =>
    obtain ⟨rest, rfl⟩ := step_reset hr h
    exact ⟨rfl, nofun, fun _ => rfl⟩

/-- Settles O35: within the clock's 64 bits `Advance` answers by its enabling alone. -/
theorem advanceExactlyWhenEnabled : Obligations.AdvanceExactlyWhenEnabled := by
  intro s d hw
  have hlimit : ¬ Config.tickLimit ≤ s.tickCount + d := Nat.not_le.mpr hw
  rw [← advanceEnabled_iff]
  refine ⟨fun he => ?_, fun he => ?_⟩
  · simp [advance, he, hlimit]
  · simp [advance, he]

end Sys2Proof.Machine
end

section
/-! SUPPORT. The reset table, and what a step other than the platform reset can do to the latches: they rise where the block
sets them, and fall at an `Unlatch`, a status read or a command start only (10_state.md R50, R23, 60_exceptions.md R452,
R453). -/

namespace Sys2Proof.Machine

/-! ## The reset state (R50, R482) -/

theorem reset_request_inactive (q : RequestId) : (State.reset.sched.get q).active = false := by
  cases q <;> rfl

theorem reset_latch_clear (l : Latch) : State.reset.latches.get l = false := by
  cases l <;> rfl

theorem reset_drive (d : DriveId) :
    State.reset.drives.get d = { physicalTrack := 0, writeProtected := false, floppy := none } := by
  cases d <;> rfl

/-- The blank tape lists no cell, and an unlisted cell reads 0x00. -/
theorem reset_tapeByte (i : Nat) (hi : i < 2048) : tapeByte State.reset i = some 0x00#8 :=
  if_pos hi

/-- Settles O53: the reset state is sound for any parameters, the defaults among them. -/
theorem invariantAtReset : Obligations.InvariantAtReset := inv_resetWith Config.defaults

/-- Settles O54: the requests, latches, drives and tape bytes by the lemmas above, each register by its reset value. -/
theorem resetValues : Obligations.ResetValues :=
  ⟨rfl, rfl, reset_request_inactive, reset_latch_clear,
    rfl, rfl, rfl,
    rfl, rfl, rfl, rfl,
    rfl, rfl, rfl, rfl,
    rfl, rfl, rfl,
    rfl, rfl, rfl, rfl,
    rfl, rfl, rfl,
    rfl,
    rfl, rfl, rfl, rfl,
    rfl, rfl, rfl, rfl,
    rfl, rfl, rfl, rfl,
    rfl, rfl,
    reset_drive,
    rfl, rfl, rfl, rfl,
    rfl, rfl, reset_tapeByte,
    rfl, rfl, rfl, rfl, rfl,
    rfl, rfl, rfl,
    rfl, rfl, rfl,
    rfl, rfl, rfl, rfl,
    rfl, rfl⟩

section

variable {s t u : State}

/-! ## A step that does not reset -/

/-- A step that does not reset performs the oldest input or, with none waiting, a `Fire` or an `Advance`. -/
theorem step_performs_of_not_reset (hr : resetsNext s = false) (h : step s = .next t) :
    ∃ i rest, i ≠ .platformReset ∧ perform i (beginStep rest s) = .next t ∧
      (s.inputs.head? = some i ∨ i = .fire ∨ ∃ d, i = .advance d) := by
  obtain ⟨i, rest, h, hi | ⟨-, rfl | ⟨d, rfl⟩⟩⟩ := step_performs h
  · refine ⟨i, rest, fun hreset => ?_, h, .inl (by rw [hi]; rfl)⟩
    exact absurd ((resetsNext_cons hi).mpr hreset) (by rw [hr]; decide)
  · exact ⟨.fire, rest, nofun, h, .inr (.inl rfl)⟩
  · exact ⟨.advance d, rest, nofun, h, .inr (.inr ⟨d, rfl⟩)⟩

/-! ## Latches that only rise -/

/-- Every latch set in `s` is set in `t`. -/
def LatchesKept (s t : State) : Prop := ∀ l, s.latches.get l = true → t.latches.get l = true

theorem LatchesKept.of_eq (h : t.latches = s.latches) : LatchesKept s t := fun _ hl => h ▸ hl

theorem LatchesKept.trans (a : LatchesKept s u) (b : LatchesKept u t) : LatchesKept s t := fun l hl => b l (a l hl)

/-- The cassette's registers rewritten. -/
theorem LatchesKept.ofCas {c : Cassette} : LatchesKept s { s with cas := c } := .of_eq rfl

theorem latch_latchesKept (l : Latch) (s : State) : LatchesKept s (latch l s) := fun k hk => by
  rw [latch_latches, Latches.get_set]
  split
  · rfl
  · exact hk

/-- An acknowledgement leaves every latch but `FdcNmi`. -/
theorem latch_of_acknowledged {l : Latch} (h : LatchesKept (acknowledgeNmi s) t) (hs : s.latches.get l = true)
    (ht : t.latches.get l = false) : l = .fdcNmi := by
  by_contra hne
  have hack : (acknowledgeNmi s).latches.get l = true := by
    rw [acknowledgeNmi, unlatch_latches, Latches.get_set, if_neg hne]
    exact hs
  exact absurd (h l hack) (by rw [ht]; decide)

/-! ## The cassette: an edge entered sets its latch, and nothing clears one (41_cassette.md R183) -/

theorem enterPhase_latchesKept (ph : Phase) (tr : Transition) (s : State) : LatchesKept s (enterPhase ph tr s) := by
  intro l hl
  cases l with
  | cassetteRisingEdge | cassetteFallingEdge => exact Bool.or_eq_true_iff.mpr (.inl hl)
  | fdcNmi | fdcMotorOffNmi => exact hl

theorem stopTape_latches (s : State) : (stopTape s).latches = s.latches := by
  unfold stopTape
  dsimp only
  split <;> rfl

theorem advanceCursor_latches (w : Bool) (s : State) : (advanceCursor w s).latches = s.latches := by
  obtain ⟨-, h⟩ | ⟨-, -, h⟩ | ⟨-, -, -, -, h⟩ | ⟨-, -, h⟩ := advanceCursor_cases w s <;> rw [h]
  exact stopTape_latches _

theorem startBit_latchesKept (s : State) : LatchesKept s (startBit s) := by
  have hc := LatchesKept.of_eq (advanceCursor_latches false s)
  unfold startBit
  dsimp only
  split
  · exact hc
  · exact hc.trans (enterPhase_latchesKept _ _ _)

theorem nextPhase_latchesKept (s : State) : LatchesKept s (nextPhase s) := by
  unfold nextPhase
  split
  · exact .of_eq rfl
  · split
    · exact enterPhase_latchesKept _ _ s
    · exact startBit_latchesKept s

theorem runPhases_latchesKept (fuel : Nat) (s : State) : LatchesKept s (runPhases fuel s) := by
  induction fuel generalizing s with
  | zero => exact .of_eq rfl
  | succ fuel ih =>
    unfold runPhases
    split
    · exact .of_eq rfl
    · split
      · exact (nextPhase_latchesKept s).trans (ih _)
      · exact .of_eq rfl

theorem armRead_latchesKept (s : State) : LatchesKept s (armRead s) := by
  unfold armRead
  split <;> exact .of_eq rfl

theorem startRead_latchesKept (s : State) : LatchesKept s (startRead s) :=
  (LatchesKept.ofCas.trans (nextPhase_latchesKept _)).trans (armRead_latchesKept _)

theorem cassetteReadCallback_latchesKept (h : cassetteReadCallback s = .next t) : LatchesKept s t := by
  unfold cassetteReadCallback at h
  split at h
  · cases h
    exact .of_eq rfl
  · obtain ⟨-, h⟩ := withTape_next h
    cases h
    exact (LatchesKept.ofCas.trans (runPhases_latchesKept _ _)).trans (armRead_latchesKept _)

theorem updateMotor_latchesKept (h : updateMotor s = .next t) : LatchesKept s t := by
  obtain ⟨-, -, -, ⟨-, rfl⟩ | ⟨-, -, rfl⟩⟩ | ⟨-, -, rfl⟩ | ⟨-, rfl⟩ := updateMotor_next h
  · exact .of_eq rfl
  · exact LatchesKept.ofCas.trans (startRead_latchesKept _)
  · exact .of_eq rfl
  · exact .of_eq rfl

theorem setMotorSignal_latchesKept {b : Bool} (h : setMotorSignal b s = .next t) : LatchesKept s t :=
  LatchesKept.ofCas.trans (updateMotor_latchesKept h)

theorem play_latchesKept (h : play s = .next t) : LatchesKept s t :=
  LatchesKept.ofCas.trans (updateMotor_latchesKept (whileReleased_next h).2)

theorem record_latchesKept (h : record s = .next t) : LatchesKept s t :=
  LatchesKept.ofCas.trans (updateMotor_latchesKept (whileReleased_next h).2)

theorem rewind_latchesKept (h : rewind s = .next t) : LatchesKept s t := by
  obtain ⟨-, h⟩ := whileReleased_next h
  cases h
  exact .ofCas

/-- The write path touches no latch. -/
theorem positiveEdge_latches (s : State) : (positiveEdge s).latches = s.latches := by
  unfold positiveEdge highClass lowClass writeBit
  dsimp only
  split
  · exact advanceCursor_latches _ _
  · split
    · exact advanceCursor_latches _ _
    · split
      · exact advanceCursor_latches _ _
      · rfl
  · rfl

theorem cassetteWrite_latches {v : Byte} (h : cassetteWrite v s = .next t) : t.latches = s.latches := by
  obtain rfl | rfl | rfl := cassetteWrite_next h
  · rfl
  · exact positiveEdge_latches (dropFlipFlop s)
  · rfl

/-! ## The FDC: the end of a command and the motor's stop set a latch (60_exceptions.md R442, R252) -/

theorem doNmi_latchesKept (s : State) : LatchesKept s (doNmi s) := latch_latchesKept .fdcNmi { s with fdc := _ }

theorem GoesOn.latches (h : GoesOn s t) : t.latches = s.latches := by
  obtain ⟨u, st, w, -, ⟨us, rfl⟩ | ⟨n, rfl⟩⟩ := h
  · exact w.latches
  · exact w.latches

theorem fdcAdvance_latchesKept (h : fdcAdvance s = .next t) : LatchesKept s t := by
  obtain ⟨-, rfl⟩ | ⟨-, rfl⟩ | h := fdcAdvance_next h
  · exact doNmi_latchesKept { s with fdc.opStatus := .opDone }
  · exact .of_eq rfl
  · exact .of_eq h.latches

theorem runCallback_latchesKept {cb : Callback} (h : runCallback cb s = .next t) : LatchesKept s t := by
  cases cb with
  | fdcAdvance => exact fdcAdvance_latchesKept h
  | poll =>
    rw [runCallback_poll, poll_eq] at h
    exact (LatchesKept.of_eq ((noteSync_worked s).trans (stopPolling_worked _)).latches).trans (fdcAdvance_latchesKept h)
  | motorOnCallback =>
    cases h
    exact .of_eq rfl
  | motorOffCallback =>
    cases h
    exact latch_latchesKept .fdcMotorOffNmi (emit _ { s with fdc.motorOn := false })
  | cassetteReadCallback => exact cassetteReadCallback_latchesKept h

theorem fire_latchesKept (h : fire s = .next t) : LatchesKept s t := by
  obtain ⟨q, -, h⟩ := fire_next h
  exact LatchesKept.trans (u := expire q s) (.of_eq rfl) (runCallback_latchesKept h)

/-! ## Command bytes: a command start acknowledges `FdcNmi`, an abort does not (R453, D42) -/

/-- The rows of Type IV, which abort the running command (46_fdc_type4.md R401). -/
def aborts : Instr → Bool
  | .reset | .forceintD1 | .forceintD2 _ | .forceintD4 _ | .forceintimm | .forceintD9 | .forceintDA _
  | .forceintDC _ => true
  | _ => false

/-- The bytes 0xD0 to 0xDF are those of Type IV (30_encoding.md R95). -/
theorem decodeByte_aborts : ∀ low : BitVec 4, (decodeByte (0xD#4 ++ low)).all aborts = true := by decide

theorem byte_of_nibbles : ∀ v : Byte, v.extractLsb' 4 4 ++ v.extractLsb' 0 4 = v := by decide

theorem ne_typeIV_of_not_aborts {v : Byte} {i : Instr} {rest : List Byte} (h : decode [v] = .ok (i, rest))
    (hi : aborts i = false) : v.extractLsb' 4 4 ≠ 0xD#4 := by
  intro hv
  have hall := decodeByte_aborts (v.extractLsb' 0 4)
  rw [← hv, byte_of_nibbles] at hall
  cases hd : decodeByte v with
  | none => simp [decode, hd] at h
  | some k =>
    obtain ⟨rfl, -⟩ : k = i ∧ [] = rest := by simpa [decode, hd] using h
    rw [hd, Option.all_some, hi] at hall
    cases hall

theorem writeReset_latches {v : Byte} (h : writeReset v s = .next t) : t.latches = s.latches := by
  unfold writeReset at h
  split at h <;> cases h <;> rfl

theorem writeForceInterrupt_latchesKept {v : Byte} {c : Command} (h : writeForceInterrupt v c s = .next t) :
    LatchesKept s t := by
  unfold writeForceInterrupt at h
  split at h <;> cases h
  · exact .of_eq rfl
  · exact doNmi_latchesKept (abortCommand v c s)

theorem startCommand_latches {v : Byte} {c : Command} (h : startCommand v c s = .next t) :
    LatchesKept s t ∨ s.fdc.enabled = true ∧ s.fdc.busy = false ∧ LatchesKept (acknowledgeNmi s) t := by
  obtain ⟨-, rfl⟩ | ⟨he, hb, h⟩ := startCommand_next h
  · exact .inl (.of_eq rfl)
  · have hack : LatchesKept (acknowledgeNmi s) (acceptCommand v c s) := .of_eq rfl
    exact .inr ⟨he, hb, hack.trans (fdcAdvance_latchesKept h)⟩

/-- A command byte keeps the latches, or it starts a command and keeps them after the acknowledgement. -/
theorem exec_latches {i : Instr} (h : exec i s = .next t) :
    LatchesKept s t ∨
      aborts i = false ∧ s.fdc.enabled = true ∧ s.fdc.busy = false ∧ LatchesKept (acknowledgeNmi s) t := by
  cases i with
  | restore | seek | step | stepIn | stepOut | rdsec | wrsec | rdaddr | rdtrk | wrtrk =>
    exact (startCommand_latches h).imp_right fun h => ⟨rfl, h⟩
  | forceintD1 | forceintD2 | forceintD4 | forceintimm | forceintD9 | forceintDA | forceintDC =>
    exact .inl (writeForceInterrupt_latchesKept h)
  | reset => exact .inl (.of_eq (writeReset_latches h))

/-! ## Ports -/

theorem selectDrive_latches (v : Byte) (s : State) : (selectDrive v s).latches = s.latches := by
  unfold selectDrive selectMotor
  dsimp only
  split_ifs <;> rfl

theorem fdcWrite_latches {f : State → State} (hf : (f s).latches = s.latches) (h : fdcWrite f s = .next t) :
    t.latches = s.latches := by
  obtain ⟨-, rfl⟩ | ⟨-, rfl⟩ := fdcWrite_next h
  · exact hf
  · rfl

/-- A port write that clears a latch is a command start (42_fdc_ports_dispatch.md R240). -/
theorem portOut_clears {p v : Byte} {l : Latch} (h : portOut p v s = .next t) (hs : s.latches.get l = true)
    (ht : t.latches.get l = false) :
    l = .fdcNmi ∧ s.fdc.enabled = true ∧ p = 0xF0#8 ∧ s.fdc.busy = false ∧ v.extractLsb' 4 4 ≠ 0xD#4 := by
  have kept (hk : LatchesKept s t) : False := absurd (hk l hs) (by rw [ht]; decide)
  have same (he : t.latches = s.latches) : False := kept (.of_eq he)
  unfold portOut at h
  split_ifs at h
  · unfold writeCommandPort at h
    split at h
    · rename_i hd
      obtain hk | ⟨hi, he, hb, hk⟩ := exec_latches h
      · exact (kept hk).elim
      · exact ⟨latch_of_acknowledged hk hs ht, he, ‹_›, hb, ne_typeIV_of_not_aborts hd hi⟩
    · cases h
  · exact (same (fdcWrite_latches (s := s) rfl h)).elim
  · exact (same (fdcWrite_latches (s := s) rfl h)).elim
  · exact (same (fdcWrite_latches (s := s) rfl h)).elim
  · exact (same (fdcWrite_latches (selectDrive_latches v s) h)).elim
  · cases h
    exact (same rfl).elim
  · exact (same (cassetteWrite_latches h)).elim

/-- A port read that clears a latch is a status read (R453, D11). -/
theorem portIn_clears {p : Byte} {l : Latch} (h : portIn p s = .next t) (hs : s.latches.get l = true)
    (ht : t.latches.get l = false) : l = .fdcNmi ∧ s.fdc.enabled = true ∧ p = 0xF0#8 := by
  have same (he : t.latches = s.latches) : False := absurd hs (by rw [← he, ht]; decide)
  unfold portIn at h
  split_ifs at h
  · obtain ⟨he, rfl⟩ | ⟨-, rfl⟩ := fdcRead_next h
    · exact ⟨latch_of_acknowledged (.of_eq rfl) hs ht, he, ‹_›⟩
    · exact (same rfl).elim
  · obtain ⟨-, rfl⟩ | ⟨-, rfl⟩ := fdcRead_next h <;> exact (same rfl).elim
  · obtain ⟨-, rfl⟩ | ⟨-, rfl⟩ := fdcRead_next h <;> exact (same rfl).elim
  · obtain ⟨-, rfl⟩ | ⟨-, rfl⟩ := fdcRead_next h <;> exact (same rfl).elim
  · cases h
    exact (same rfl).elim

/-! ## The step -/

/-- The latches under every input that is neither a port access nor an `Unlatch` nor the platform reset. -/
theorem perform_latchesKept {i : Input} (h : perform i s = .next t) (hin : ∀ p, i ≠ .portIn p)
    (hout : ∀ p v, i ≠ .portOut p v) (hun : ∀ l, i ≠ .unlatch l) (hr : i ≠ .platformReset) : LatchesKept s t := by
  cases i with
  | portOut p v => exact absurd rfl (hout p v)
  | portIn p => exact absurd rfl (hin p)
  | fire => exact fire_latchesKept h
  | advance d => obtain ⟨rfl, -, -⟩ := advance_next h; exact .of_eq rfl
  | setMotorSignal b => exact setMotorSignal_latchesKept h
  | play => exact play_latchesKept h
  | record => exact record_latchesKept h
  | stop => cases h; exact .of_eq (stopTape_latches s)
  | rewind => exact rewind_latchesKept h
  | insertTape bytes => obtain ⟨-, -, -, rfl⟩ := insertTape_next h; exact .of_eq rfl
  | unlatch l => exact absurd rfl (hun l)
  | mediaChange d f wp => obtain ⟨-, rfl⟩ := mediaChange_next h; exact .of_eq rfl
  | platformReset => exact absurd rfl hr

/-- The inputs that clear a latch: its `Unlatch`, and for `FdcNmi` a status read and a command start. -/
theorem perform_clears {i : Input} {l : Latch} (h : perform i s = .next t) (hr : i ≠ .platformReset)
    (hs : s.latches.get l = true) (ht : t.latches.get l = false) :
    i = .unlatch l ∨ l = .fdcNmi ∧ s.fdc.enabled = true ∧
      (i = .portIn 0xF0#8 ∨ ∃ v, i = .portOut 0xF0#8 v ∧ s.fdc.busy = false ∧ v.extractLsb' 4 4 ≠ 0xD#4) := by
  have kept (hk : LatchesKept s t) : False := absurd (hk l hs) (by rw [ht]; decide)
  cases i with
  | unlatch k =>
    left
    cases h
    rw [unlatch_latches, Latches.get_set] at ht
    split at ht
    · rw [‹l = k›]
    · exact absurd hs (by rw [ht]; decide)
  | portIn p =>
    obtain ⟨hl, he, rfl⟩ := portIn_clears h hs ht
    exact .inr ⟨hl, he, .inl rfl⟩
  | portOut p v =>
    obtain ⟨hl, he, rfl, hb, hv⟩ := portOut_clears h hs ht
    exact .inr ⟨hl, he, .inr ⟨v, rfl, hb, hv⟩⟩
  | _ => exact (kept (perform_latchesKept h nofun nofun nofun hr)).elim

end

/-- Settles O59: a step performs one input, and the inputs that clear a latch are known. -/
theorem latchesHold : Obligations.LatchesHold := by
  intro s t h hr l hs ht
  obtain ⟨i, rest, hne, h, hi⟩ := step_performs_of_not_reset hr h
  obtain rfl | ⟨hl, he, rfl | ⟨v, rfl, hb, hv⟩⟩ := perform_clears h hne hs ht
  · exact .inl (hi.resolve_right nofun)
  · exact .inr ⟨hl, he, .inl (hi.resolve_right nofun)⟩
  · exact .inr ⟨hl, he, .inr ⟨v, hi.resolve_right nofun, hb, hv⟩⟩

end Sys2Proof.Machine
end

section
/-! SUPPORT. The heads of the drives: only a pass of state `Step` of a Type I command moves one, and every other run of the
sequencer leaves all four where they are (10_state.md R29, 43_fdc_type1.md R285 to R288). -/

namespace Sys2Proof.Machine

/-- The track the head of a drive stands on. -/
def heads (s : State) (d : DriveId) : Nat := (s.drives.get d).physicalTrack

/-- Where the outcome is a next state, its heads are `p`. -/
def HeadsAt (p : DriveId → Nat) (o : Host.Outcome State Fault Refusal) : Prop := ∀ t, o = .next t → heads t = p

section

variable {s t u : State} {p : DriveId → Nat} {f : State → Host.Outcome State Fault Refusal}

/-! ## The operations the sequencer shares -/

theorem heads_of_drives (h : t.drives = s.drives) : heads t = heads s := by
  unfold heads
  rw [h]

theorem afterTrackRead_heads (s : State) : heads (afterTrackRead s) = heads s := by
  unfold afterTrackRead
  split <;> rfl

/-- A media write moves no head. -/
theorem trackWrite_heads (i : Nat) (b : Byte) (m : Bool) (s : State) : heads (trackWrite i b m s) = heads s := by
  funext d
  unfold heads
  rw [trackWrite_get]
  split
  · exact DriveState.writeTrack_physicalTrack _ _ _ _ _ _
  · rfl

theorem noteSync_heads (s : State) : heads (noteSync s) = heads s := by
  unfold noteSync
  split <;> rfl

theorem stopPolling_heads (s : State) : heads (stopPolling s) = heads s := heads_of_drives rfl

theorem next_headsAt (h : heads t = p) : HeadsAt p (.next t) := by
  rintro _ ⟨⟩
  exact h

theorem unreachableState_headsAt : HeadsAt p unreachableState := fun t h => by cases h

theorem withHead_headsAt (h : HeadsAt p (f s)) : HeadsAt p (withHead f s) := fun t ht => h t (withHead_next ht).2.2

theorem waitBytes_headsAt {n : Nat} {st : OpStatus} (h : heads s = p) : HeadsAt p (waitBytes n st s) :=
  withHead_headsAt (next_headsAt h)

theorem startSearch_headsAt {st : OpStatus} (h : heads s = p) : HeadsAt p (startSearch st s) := waitBytes_headsAt h

theorem delayOrSearch_headsAt {st : OpStatus} (h : heads s = p) : HeadsAt p (delayOrSearch st s) := by
  unfold delayOrSearch
  split
  · exact next_headsAt h
  · exact startSearch_headsAt h

theorem seekingIDAM_headsAt (h : heads s = p) : HeadsAt p (seekingIDAM s) := by
  unfold seekingIDAM
  split
  · exact next_headsAt h
  · refine withHead_headsAt ?_
    split
    · exact waitBytes_headsAt ((afterTrackRead_heads s).trans h)
    · exact waitBytes_headsAt h

theorem headerByte_headsAt {b : Byte} (hf : ∀ u, heads u = p → HeadsAt p (f u)) (h : heads s = p) :
    HeadsAt p (headerByte b f s) := by
  unfold headerByte
  split
  · exact hf _ h
  · exact waitBytes_headsAt h

theorem readingAddressData_headsAt (hf : ∀ u, heads u = p → HeadsAt p (f u)) (h : heads s = p) :
    HeadsAt p (readingAddressData f s) :=
  withHead_headsAt (headerByte_headsAt hf ((afterTrackRead_heads s).trans h))

theorem endRecord_headsAt (h : heads s = p) : HeadsAt p (endRecord s) := by
  unfold endRecord
  split
  · exact waitBytes_headsAt h
  · exact next_headsAt h

/-! ## ReadSector and WriteSector (44_fdc_type2.md) -/

theorem typeIIPrepare_headsAt (h : heads s = p) : HeadsAt p (typeIIPrepare s) := by
  unfold typeIIPrepare
  split
  · exact next_headsAt h
  · exact delayOrSearch_headsAt h

theorem typeIIHeader_headsAt (h : heads s = p) : HeadsAt p (typeIIHeader s) := by
  unfold typeIIHeader beginTransfer
  split_ifs
  · exact waitBytes_headsAt h
  · exact next_headsAt h
  · exact waitBytes_headsAt h
  · exact waitBytes_headsAt h

theorem seekingDAM_headsAt (h : heads s = p) : HeadsAt p (seekingDAM s) := by
  refine withHead_headsAt ?_
  have hr := (afterTrackRead_heads s).trans h
  unfold seekingDAMByte
  split_ifs <;> exact waitBytes_headsAt hr

theorem readSectorData_headsAt (h : heads s = p) : HeadsAt p (readSectorData s) := by
  refine withHead_headsAt ?_
  have hr := (afterTrackRead_heads s).trans h
  unfold afterDataByte
  split <;> exact waitBytes_headsAt hr

theorem readCRCHigh_headsAt (h : heads s = p) : HeadsAt p (readCRCHigh s) :=
  withHead_headsAt (waitBytes_headsAt ((afterTrackRead_heads s).trans h))

theorem readCRCLow_headsAt (h : heads s = p) : HeadsAt p (readCRCLow s) := by
  refine withHead_headsAt ?_
  have hr := (afterTrackRead_heads s).trans h
  unfold checkDataCrc
  split
  · exact next_headsAt hr
  · exact endRecord_headsAt hr

theorem drqCheck_headsAt (h : heads s = p) : HeadsAt p (drqCheck s) := by
  unfold drqCheck
  split
  · exact next_headsAt h
  · exact waitBytes_headsAt h

theorem writeCounted_heads (b : Byte) (s : State) : heads (writeCounted b s) = heads s := trackWrite_heads _ b false s

theorem writeFiller_headsAt (h : heads s = p) : HeadsAt p (writeFiller s) := by
  refine withHead_headsAt ?_
  have hw := (writeCounted_heads 0x00#8 s).trans h
  dsimp only
  split_ifs <;> exact waitBytes_headsAt hw

theorem writeSync_headsAt (h : heads s = p) : HeadsAt p (writeSync s) := by
  refine withHead_headsAt ?_
  have hw := (writeCounted_heads 0xA1#8 s).trans h
  dsimp only
  split <;> exact waitBytes_headsAt hw

theorem writeDAM_headsAt (h : heads s = p) : HeadsAt p (writeDAM s) :=
  withHead_headsAt (waitBytes_headsAt ((trackWrite_heads _ _ false (startCrc (damByte s) s)).trans h))

theorem writeSectorData_headsAt (h : heads s = p) : HeadsAt p (writeSectorData s) := by
  refine withHead_headsAt ?_
  have hw := (writeCounted_heads (takenByte s) (noteTaken s)).trans h
  dsimp only
  split <;> exact waitBytes_headsAt hw

theorem writeCRCHigh_headsAt (h : heads s = p) : HeadsAt p (writeCRCHigh s) :=
  withHead_headsAt (waitBytes_headsAt ((trackWrite_heads _ _ false (splitCrc s)).trans h))

theorem writeSectorCRCLow_headsAt (h : heads s = p) : HeadsAt p (writeSectorCRCLow s) :=
  withHead_headsAt (waitBytes_headsAt ((trackWrite_heads _ _ false s).trans h))

theorem writeTrailer_headsAt (h : heads s = p) : HeadsAt p (writeTrailer s) :=
  withHead_headsAt (endRecord_headsAt ((trackWrite_heads _ _ false s).trans h))

theorem readSectorAdvance_headsAt (h : heads s = p) : HeadsAt p (readSectorAdvance s) := by
  unfold readSectorAdvance
  split
  · exact typeIIPrepare_headsAt h
  · exact startSearch_headsAt h
  · exact seekingIDAM_headsAt h
  · exact readingAddressData_headsAt (fun _ => typeIIHeader_headsAt) h
  · exact seekingDAM_headsAt h
  · exact readSectorData_headsAt h
  · exact readCRCHigh_headsAt h
  · exact readCRCLow_headsAt h
  · exact unreachableState_headsAt

theorem writeSectorAdvance_headsAt (h : heads s = p) : HeadsAt p (writeSectorAdvance s) := by
  unfold writeSectorAdvance
  split
  · exact typeIIPrepare_headsAt h
  · exact startSearch_headsAt h
  · exact seekingIDAM_headsAt h
  · exact readingAddressData_headsAt (fun _ => typeIIHeader_headsAt) h
  · exact drqCheck_headsAt h
  · exact writeFiller_headsAt h
  · exact writeSync_headsAt h
  · exact writeDAM_headsAt h
  · exact writeSectorData_headsAt h
  · exact writeCRCHigh_headsAt h
  · exact writeSectorCRCLow_headsAt h
  · exact writeTrailer_headsAt h
  · exact unreachableState_headsAt

/-! ## ReadAddress, ReadTrack and WriteTrack (45_fdc_type3.md) -/

theorem readAddressByte_headsAt (h : heads s = p) : HeadsAt p (readAddressByte s) :=
  withHead_headsAt (headerByte_headsAt (fun _ hu => next_headsAt hu) ((afterTrackRead_heads s).trans h))

theorem readAddressAdvance_headsAt (h : heads s = p) : HeadsAt p (readAddressAdvance s) := by
  unfold readAddressAdvance
  split
  · exact delayOrSearch_headsAt h
  · exact startSearch_headsAt h
  · exact seekingIDAM_headsAt h
  · exact readAddressByte_headsAt h
  · exact unreachableState_headsAt

theorem readTrackData_headsAt (h : heads s = p) : HeadsAt p (readTrackData s) := by
  unfold readTrackData
  split
  · exact next_headsAt h
  · exact withHead_headsAt (waitBytes_headsAt ((afterTrackRead_heads s).trans h))

theorem readTrackAdvance_headsAt (h : heads s = p) : HeadsAt p (readTrackAdvance s) := by
  unfold readTrackAdvance readTrackIndexHole
  split
  · exact delayOrSearch_headsAt h
  · exact startSearch_headsAt h
  · split
    · exact readTrackData_headsAt h
    · exact waitBytes_headsAt h
  · exact readTrackData_headsAt h
  · exact unreachableState_headsAt

theorem writeTrackPrepare_headsAt (h : heads s = p) : HeadsAt p (writeTrackPrepare s) := by
  unfold writeTrackPrepare
  split
  · exact next_headsAt h
  · exact delayOrSearch_headsAt h

theorem transformState_heads (b : Byte) (s : State) : heads (transformState b s) = heads s := by
  unfold transformState
  split_ifs
  · rfl
  · rfl
  · rfl
  · exact afterTrackRead_heads s
  · rfl
  · rfl
  · rfl

theorem writeTrackByte_headsAt {b : Byte} (h : heads s = p) : HeadsAt p (writeTrackByte b s) := by
  have hw := (trackWrite_heads (trackDataIndex s) (transform b s).out (transform b s).mark (transformState b s)).trans
    ((transformState_heads b s).trans h)
  unfold writeTrackByte
  dsimp only
  split <;> exact waitBytes_headsAt hw

theorem writeTrackData_headsAt (h : heads s = p) : HeadsAt p (writeTrackData s) := by
  unfold writeTrackData
  split
  · exact next_headsAt h
  · exact withHead_headsAt (writeTrackByte_headsAt h)

theorem writeTrackCRCLow_headsAt (h : heads s = p) : HeadsAt p (writeTrackCRCLow s) := by
  unfold writeTrackCRCLow
  split
  · exact next_headsAt h
  · exact withHead_headsAt (waitBytes_headsAt ((trackWrite_heads _ _ false s).trans h))

theorem writeTrackAdvance_headsAt (h : heads s = p) : HeadsAt p (writeTrackAdvance s) := by
  unfold writeTrackAdvance writeTrackIndexHole
  split
  · exact writeTrackPrepare_headsAt h
  · exact startSearch_headsAt h
  · split
    · exact writeTrackData_headsAt h
    · exact waitBytes_headsAt h
  · exact writeTrackData_headsAt h
  · exact writeTrackCRCLow_headsAt h
  · exact unreachableState_headsAt

/-! ## Type I: a pass of state `Step` moves the selected head by one track (43_fdc_type1.md) -/

/-- Every head that moves is the selected one, moves by one track within 0 to 80, and the track step is emitted. -/
def HeadsStep (s t : State) : Prop :=
  ∀ d, heads t d ≠ heads s d →
    s.fdc.currentDrive = some d ∧ Output.trackStep ∈ t.outputs ∧
      (heads t d = heads s d + 1 ∧ heads t d ≤ 80 ∨ heads t d + 1 = heads s d)

theorem HeadsStep.of_heads (h : heads t = heads s) : HeadsStep s t := fun d hd => absurd (congrFun h d) hd

theorem HeadsStep.of_drives (h : t.drives = s.drives) : HeadsStep s t := .of_heads (heads_of_drives h)

/-- Work before the step that leaves the heads and the selection. -/
theorem HeadsStep.after (h : HeadsStep u t) (hh : heads u = heads s)
    (hc : u.fdc.currentDrive = s.fdc.currentDrive) : HeadsStep s t := by
  unfold HeadsStep at h ⊢
  rw [← hh, ← hc]
  exact h

/-- Work after the step that leaves the heads and the outputs. -/
theorem HeadsStep.before (h : HeadsStep s u) (hh : heads t = heads u) (ho : t.outputs = u.outputs) : HeadsStep s t := by
  unfold HeadsStep at h ⊢
  rw [hh, ho]
  exact h

/-- One head set to a neighbouring track, with the track step emitted. -/
theorem headsStep_of_set {d : DriveId} {n : Nat} (hd : s.fdc.currentDrive = some d)
    (hset : t.drives = s.drives.set d { s.drives.get d with physicalTrack := n }) (ho : Output.trackStep ∈ t.outputs)
    (hn : n = heads s d + 1 ∧ n ≤ 80 ∨ n + 1 = heads s d) : HeadsStep s t := by
  have hheads (k : DriveId) : heads t k = if k = d then n else heads s k := by
    unfold heads
    rw [hset, Drives.get_set]
    split <;> rfl
  intro k hk
  rw [hheads] at hk ⊢
  split at hk
  · obtain rfl : k = d := ‹_›
    rw [if_pos rfl]
    exact ⟨hd, ho, hn⟩
  · exact absurd rfl hk

theorem stepHead_headsStep (s : State) : HeadsStep s (stepHead s) := by
  unfold stepHead
  split
  · obtain ⟨d, hd, hlt, h⟩ | h := stepUp_cases s <;> rw [h]
    · exact headsStep_of_set hd rfl (List.mem_append_right _ List.mem_cons_self) (.inl ⟨rfl, hlt⟩)
    · exact .of_drives rfl
  · obtain ⟨d, hd, hpos, h⟩ | h := stepDown_cases s <;> rw [h]
    · exact headsStep_of_set hd rfl (List.mem_append_right _ List.mem_cons_self) (.inr (Nat.sub_add_cancel hpos))
    · exact .of_drives rfl

theorem checkVerify_heads (s : State) : heads (checkVerify s) = heads s := by
  unfold checkVerify
  split <;> rfl

theorem endStepPass_heads (s : State) : heads (endStepPass s) = heads s := by
  unfold endStepPass
  split_ifs <;> rfl

theorem endStepPass_outputs (s : State) : (endStepPass s).outputs = s.outputs := by
  unfold endStepPass
  split_ifs <;> rfl

theorem stepPass_headsStep (s : State) : HeadsStep s (stepPass s) := by
  have hcount : heads (countStep s) = heads s ∧ (countStep s).fdc.currentDrive = s.fdc.currentDrive := by
    unfold countStep
    split <;> exact ⟨rfl, rfl⟩
  exact ((stepHead_headsStep (countStep s)).after hcount.1 hcount.2).before (endStepPass_heads _)
    (endStepPass_outputs _)

theorem typeIStep_headsStep (s : State) : HeadsStep s (typeIStep s) := by
  unfold typeIStep
  split_ifs
  · exact .of_heads (checkVerify_heads { s with fdc.opStatus := .checkVerify })
  · exact (stepPass_headsStep { s with fdc.lastStepDirUp := _ }).after rfl rfl
  · exact stepPass_headsStep s

theorem typeIPrepare_headsStep (s : State) : HeadsStep s (typeIPrepare s) :=
  (typeIStep_headsStep { typeIDecode s with fdc.opStatus := .step }).after rfl rfl

theorem verifyTrack_headsAt (h : heads s = p) : HeadsAt p (verifyTrack s) := by
  unfold verifyTrack
  split
  · exact next_headsAt h
  · exact waitBytes_headsAt h

theorem typeIAdvance_headsStep (h : typeIAdvance s = .next t) : HeadsStep s t := by
  unfold typeIAdvance at h
  split at h
  · cases h
    exact typeIPrepare_headsStep s
  · cases h
    exact typeIStep_headsStep s
  · cases h
    exact .of_heads (checkVerify_heads s)
  · exact .of_heads (seekingIDAM_headsAt rfl t h)
  · exact .of_heads (readingAddressData_headsAt (fun _ => verifyTrack_headsAt) rfl t h)
  · cases h

/-! ## The sequencer and the callbacks -/

theorem commandAdvance_headsStep (h : commandAdvance s = .next t) : HeadsStep s t := by
  unfold commandAdvance at h
  cases hc : s.fdc.command <;> simp only [hc] at h
  case restore | seek | step => exact typeIAdvance_headsStep h
  case readSector => exact .of_heads (readSectorAdvance_headsAt rfl t h)
  case writeSector => exact .of_heads (writeSectorAdvance_headsAt rfl t h)
  case readAddress => exact .of_heads (readAddressAdvance_headsAt rfl t h)
  case readTrack => exact .of_heads (readTrackAdvance_headsAt rfl t h)
  case writeTrack => exact .of_heads (writeTrackAdvance_headsAt rfl t h)
  case reset | forceInterrupt | forceInterruptImmediate => cases h

theorem fdcAdvance_headsStep (h : fdcAdvance s = .next t) : HeadsStep s t := by
  unfold fdcAdvance at h
  split at h
  · cases h
    exact .of_drives rfl
  · cases h
    exact .of_drives rfl
  · exact commandAdvance_headsStep h

theorem runCallback_headsStep {cb : Callback} (h : runCallback cb s = .next t) : HeadsStep s t := by
  cases cb with
  | fdcAdvance => exact fdcAdvance_headsStep h
  | poll =>
    rw [runCallback_poll, poll_eq] at h
    have hc : (stopPolling (noteSync s)).fdc.currentDrive = s.fdc.currentDrive := by
      rw [stopPolling_fdc, noteSync_fdc]
    exact (fdcAdvance_headsStep h).after ((stopPolling_heads _).trans (noteSync_heads s)) hc
  | motorOnCallback | motorOffCallback =>
    cases h
    exact .of_drives rfl
  | cassetteReadCallback => exact .of_drives (cassetteReadCallback_deckWorked h).drives

theorem fire_headsStep (h : fire s = .next t) : HeadsStep s t := by
  obtain ⟨q, -, h⟩ := fire_next h
  exact (runCallback_headsStep h).after rfl rfl

/-! ## Ports and the step -/

theorem exec_headsStep {i : Instr} (h : exec i s = .next t) : HeadsStep s t := by
  obtain rfl | ⟨-, v, c, h⟩ | ⟨v, c, rfl⟩ | ⟨v, c, rfl⟩ := exec_next h
  · exact .of_drives rfl
  · exact (fdcAdvance_headsStep h).after rfl rfl
  · exact .of_drives rfl
  · exact .of_drives rfl

theorem selectDrive_drives (v : Byte) (s : State) : (selectDrive v s).drives = s.drives := by
  unfold selectDrive selectMotor
  dsimp only
  split_ifs <;> rfl

theorem portOut_headsStep {n v : Byte} (h : portOut n v s = .next t) : HeadsStep s t := by
  obtain rfl | ⟨i, h⟩ | rfl | rfl | rfl | rfl | rfl | h := portOut_next h
  · exact .of_drives rfl
  · exact exec_headsStep h
  · exact .of_drives rfl
  · exact .of_drives rfl
  · exact .of_drives rfl
  · exact .of_drives (selectDrive_drives v s)
  · exact .of_drives rfl
  · exact .of_drives (cassetteWrite_deckWorked h).drives

/-- A media change moves no head (70_reset_and_hazards.md R496). -/
theorem mediaChange_heads {d : DriveId} {fl : Option FloppyImage} {wp : Bool} (h : mediaChange d fl wp s = .next t) :
    heads t = heads s := by
  obtain ⟨-, rfl⟩ := mediaChange_next h
  funext k
  unfold heads
  rw [Drives.get_set]
  split
  · rw [‹k = d›]
  · rfl

/-- The heads under every input but the platform reset. -/
theorem perform_headsStep {i : Input} (hi : i ≠ .platformReset) (h : perform i s = .next t) : HeadsStep s t := by
  have deck (w : DeckWorked s t) : HeadsStep s t := .of_drives w.drives
  cases i with
  | portOut n v => exact portOut_headsStep h
  | portIn n => obtain ⟨e, u, rfl, rfl | rfl | rfl | rfl⟩ := portIn_next h <;> exact .of_drives rfl
  | fire => exact fire_headsStep h
  | advance d => obtain ⟨rfl, -, -⟩ := advance_next h; exact .of_drives rfl
  | setMotorSignal b => exact deck (setMotorSignal_deckWorked h)
  | play => exact deck (play_deckWorked h)
  | record => exact deck (record_deckWorked h)
  | stop => cases h; exact deck (stopTape_deckWorked s)
  | rewind => exact deck (rewind_deckWorked h)
  | insertTape bytes => exact deck (insertTape_deckWorked h)
  | unlatch l => cases h; exact .of_drives rfl
  | mediaChange d fl wp => exact .of_heads (mediaChange_heads h)
  | platformReset => exact absurd rfl hi

end

/-- Settles O58: a step performs one input, and only a pass of state `Step` in it moves a head. -/
theorem headsMoveOneTrack : Obligations.HeadsMoveOneTrack := by
  intro s t h hr
  obtain ⟨i, rest, hne, h, -⟩ := step_performs_of_not_reset hr h
  exact (perform_headsStep hne h).after rfl rfl

end Sys2Proof.Machine
end

section
/-! SUPPORT. The rotating disk and the byte wait: the head is always on the track, and at the default tick rate a byte wait
ends with its target under the head (40_clock_scheduler.md R144 to R154). -/

namespace Sys2Proof.Machine

section

variable {s t : State}

/-! ## The head's position (R144, R149) -/

theorem diskAngle_lt (s : State) : diskAngle s < Config.angleDivisions := by
  unfold diskAngle
  obtain hr | hr := Nat.eq_zero_or_pos (ticksPerRev s.params)
  · rw [hr, Nat.div_zero]
    decide
  · rw [Nat.div_lt_iff_lt_mul hr, Nat.mul_comm Config.angleDivisions]
    exact Nat.mul_lt_mul_of_pos_right (Nat.mod_lt _ hr) (by decide)

theorem trackDataIndex_lt (h : 1 ≤ trackLen s) : trackDataIndex s < trackLen s := by
  unfold trackDataIndex
  rw [Nat.div_lt_iff_lt_mul (by decide), Nat.mul_comm (trackLen s)]
  exact Nat.mul_lt_mul_of_pos_right (diskAngle_lt s) h

/-! ## The bound track and its length (10_state.md R36, R148) -/

theorem boundTrack_no_drive (h : s.fdc.currentDrive = none) : boundTrack s = none := by
  simp [boundTrack, curDrive, h]

theorem trackLen_of_bound {tr : Track} (h : boundTrack s = some tr) : trackLen s = tr.data.size := by
  simp only [trackLen, h]

theorem trackLen_unbound (h : boundTrack s = none) : trackLen s = if s.fdc.doubleDensity then 12500 else 6250 := by
  simp only [trackLen, h, Config.trackLenDd, Config.trackLenSd]

/-- The clock does not enter into the track's length. -/
theorem trackLen_tickCount (s : State) (k : Nat) : trackLen { s with tickCount := k } = trackLen s := rfl

/-! ## The target of a byte wait (R152) -/

/-- In double density the target is the plain one. -/
theorem byteWaitTarget_double (n : Nat) (h : s.fdc.doubleDensity = true) :
    byteWaitTarget n s = (trackDataIndex s + n) % trackLen s := by
  rw [byteWaitTarget, if_pos h]

/-- In single density the distance is doubled and the target is the even one of a pair (D5). -/
theorem byteWaitTarget_single (n : Nat) (h : s.fdc.doubleDensity = false) :
    byteWaitTarget n s % 2 = 0 ∧ (byteWaitTarget n s = (trackDataIndex s + 2 * n) % trackLen s ∨
      byteWaitTarget n s + 1 = (trackDataIndex s + 2 * n) % trackLen s) := by
  rw [byteWaitTarget, if_neg (by rw [h]; decide), Nat.mul_comm n 2]
  omega

theorem byteWaitTarget_lt (n : Nat) (h : 1 ≤ trackLen s) : byteWaitTarget n s < trackLen s := by
  unfold byteWaitTarget
  split
  · exact Nat.mod_lt _ h
  · exact (Nat.sub_le _ _).trans_lt (Nat.mod_lt _ h)

/-- Where the head can address the track, a byte wait is armed. -/
theorem waitBytes_of_headOk (n : Nat) (st : OpStatus) (h : Claims.HeadOk s) :
    waitBytes n st s = .next (armByteWait n st s) := by
  obtain ⟨hlen, heven⟩ := h
  exact withHead_stops (trackDataIndex_lt hlen)
    ((Bool.eq_false_or_eq_true s.fdc.doubleDensity).imp_right heven)

/-! ## Landing on the target (R154)

With 405,504,000 ticks to a revolution the safety margin of 10,000 ticks is between 24 and 25 angle units, and a cell of a
track of up to 38,968 bytes spans at least 25 of them: the wait ends inside the target's cell, past all rounding, and
before the index hole. -/

/-- The ticks of a wait from the angle `a` to the angle `cell`, round the index hole where `cell` lies behind (R152). -/
theorem wait_ticks {a cell : Nat} (ha : a < 1000000) (hcell : cell ≤ 999974) :
    (cell + 1000000 - a) % 1000000 = if a ≤ cell then cell - a else cell + 1000000 - a := by
  split <;> omega

/-- A wait for the angle `cell` from `x` ticks into a revolution ends one to 25 units past that angle. -/
theorem angle_after_wait {x cell wait : Nat} (hx : x < 405504000) (hcell : cell ≤ 999974)
    (hwait : wait = (cell + 1000000 - x * 1000000 / 405504000) % 1000000 * 405504000 / 1000000 + 10000) :
    cell + 1 ≤ (x + wait) % 405504000 * 1000000 / 405504000 ∧
      (x + wait) % 405504000 * 1000000 / 405504000 ≤ cell + 25 := by
  rw [wait_ticks (by omega) hcell] at hwait
  split at hwait
  · rw [Nat.mod_eq_of_lt (by omega)]
    omega
  · rw [Nat.mod_eq_sub_mod (by omega), Nat.mod_eq_of_lt (by omega)]
    omega

/-- From one to 25 units past the angle at which a cell begins the head is still on that cell. -/
theorem index_of_angle {angle target len : Nat} (hlen : 1 ≤ len) (hmax : len ≤ 38968)
    (h : target * 1000000 / len + 1 ≤ angle ∧ angle ≤ target * 1000000 / len + 25) :
    angle * len / 1000000 = target := by
  have hbegin : target * 1000000 / len * len ≤ target * 1000000 := Nat.div_mul_le_self _ _
  have hend : target * 1000000 < (target * 1000000 / len + 1) * len := Nat.lt_mul_of_div_lt (Nat.lt_succ_self _) hlen
  have hlow := Nat.mul_le_mul_right len h.1
  have hhigh := Nat.mul_le_mul_right len h.2
  rw [Nat.add_mul] at hhigh
  rw [Nat.div_eq_iff (by decide)]
  omega

/-- The last cell of the track begins at least 26 units before the index hole. -/
theorem cellAngle_le {target len : Nat} (ht : target < len) (hmax : len ≤ 38968) :
    target * 1000000 / len ≤ 999974 := by
  rw [← Nat.lt_succ_iff, Nat.div_lt_iff_lt_mul (by omega)]
  omega

section

variable (hrev : ticksPerRev s.params = 405504000)

include hrev

theorem trackDataIndex_default :
    trackDataIndex s = s.tickCount % 405504000 * 1000000 / 405504000 * trackLen s / 1000000 := by
  rw [trackDataIndex, diskAngle, hrev, Config.angleDivisions]

theorem byteWaitDelay_default (target : Nat) :
    byteWaitDelay target s =
      (target * 1000000 / trackLen s + 1000000 - s.tickCount % 405504000 * 1000000 / 405504000) % 1000000 * 405504000 /
        1000000 + 10000 := by
  rw [byteWaitDelay, cellAngle, diskAngle, hrev, Config.angleDivisions, Config.pollMarginTicks]

/-- At the default tick rate the head is on the target when the delay of a byte wait is over. -/
theorem trackDataIndex_after_wait {target : Nat} (ht : target < trackLen s) (hmax : trackLen s ≤ 38968) :
    trackDataIndex { s with tickCount := s.tickCount + byteWaitDelay target s } = target := by
  have hland := angle_after_wait (Nat.mod_lt s.tickCount (by decide : 0 < 405504000)) (cellAngle_le ht hmax)
    (byteWaitDelay_default hrev target)
  rw [Nat.mod_add_mod] at hland
  rw [trackDataIndex_default (by exact hrev), trackLen_tickCount]
  dsimp only
  exact index_of_angle (Nat.one_le_of_lt ht) hmax hland

end

/-- What a byte wait arms leaves the rotation and the bound track as they are. -/
theorem trackDataIndex_armByteWait (n k : Nat) (st : OpStatus) :
    trackDataIndex { armByteWait n st s with tickCount := k } = trackDataIndex { s with tickCount := k } := rfl

end

/-- Settles O39: the bound track by cases of the drive, the wait armed at its target, and the margin's arithmetic. -/
theorem byteWaitLandsOnTarget : Obligations.ByteWaitLandsOnTarget := by
  refine ⟨fun s => ⟨fun d hd => boundTrack_trackAt hd, boundTrack_no_drive, fun tr => trackLen_of_bound,
    trackLen_unbound⟩, fun s n st hok => ?_, fun s t n st htps hmax h => ?_⟩
  · exact ⟨byteWaitTarget n s, byteWaitTarget_double n, byteWaitTarget_single n, waitBytes_of_headOk n st hok⟩
  · obtain ⟨hidx, -, -⟩ := withHead_next h
    obtain rfl := waitBytes_next h
    have hrev : ticksPerRev s.params = 405504000 := by rw [ticksPerRev, htps]; rfl
    rw [trackDataIndex_armByteWait]
    exact trackDataIndex_after_wait hrev (byteWaitTarget_lt n (Nat.one_le_of_lt hidx)) hmax

end Sys2Proof.Machine
end

section
/-! SUPPORT. The ports of the FDC and the write of a command byte: which answer each access gives, enabled and disabled, and
which commands a busy FDC turns away (20_memory.md R62, R64, 42_fdc_ports_dispatch.md R230 to R237). -/

namespace Sys2Proof.Machine

section

variable {s : State}

/-! ## The registers (R64, R234, R235, R237) -/

theorem portOut_command (v : Byte) (s : State) : portOut 0xF0#8 v s = writeCommandPort v s := rfl

theorem portOut_track (v : Byte) (s : State) :
    portOut 0xF1#8 v s = fdcWrite (fun s => { s with fdc.trackRegister := v }) s := rfl

theorem portOut_sector (v : Byte) (s : State) :
    portOut 0xF2#8 v s = fdcWrite (fun s => { s with fdc.sectorRegister := v }) s := rfl

theorem portOut_data (v : Byte) (s : State) :
    portOut 0xF3#8 v s = fdcWrite (fun s => { s with fdc.dataRegister := v, fdc.drq := false }) s := rfl

theorem portOut_select (v : Byte) (s : State) : portOut 0xF4#8 v s = fdcWrite (selectDrive v) s := rfl

theorem portIn_status (s : State) : portIn 0xF0#8 s = fdcRead 0xF0#8 (statusByte s) acknowledgeNmi s := rfl

theorem portIn_track (s : State) : portIn 0xF1#8 s = fdcRead 0xF1#8 s.fdc.trackRegister id s := rfl

theorem portIn_sector (s : State) : portIn 0xF2#8 s = fdcRead 0xF2#8 s.fdc.sectorRegister id s := rfl

theorem fdcWrite_enabled (f : State → State) (h : s.fdc.enabled = true) : fdcWrite f s = .next (f s) := by
  rw [fdcWrite, if_pos h]

theorem fdcWrite_disabled (f : State → State) (h : s.fdc.enabled = false) : fdcWrite f s = .next s := by
  rw [fdcWrite, if_neg (by rw [h]; decide)]

theorem fdcRead_enabled (p v : Byte) (f : State → State) (h : s.fdc.enabled = true) :
    fdcRead p v f s = .next (emit (.busRead p v) (f s)) := by
  rw [fdcRead, if_pos h]

theorem fdcRead_disabled (p v : Byte) (f : State → State) (h : s.fdc.enabled = false) :
    fdcRead p v f s = .next (emit (.busRead p 0xFF#8) s) := by
  rw [fdcRead, if_neg (by rw [h]; decide)]

/-- Settles O41: ports 0xF1 to 0xF4 are register accesses, which a disabled FDC ignores or answers with 0xFF. -/
theorem registerPorts : Obligations.RegisterPorts := by
  intro s v
  rw [portOut_track, portOut_sector, portOut_data, portOut_select, portIn_track, portIn_sector]
  exact
    ⟨fun h => ⟨fdcWrite_enabled _ h, fdcWrite_enabled _ h, fdcWrite_enabled _ h, fdcRead_enabled _ _ _ h,
        fdcRead_enabled _ _ _ h⟩,
      fun h => ⟨fdcWrite_disabled _ h, fdcWrite_disabled _ h, fdcWrite_disabled _ h, fdcWrite_disabled _ h,
        fdcRead_disabled _ _ _ h, fdcRead_disabled _ _ _ h⟩⟩

/-! ## The status byte (30_encoding.md R103 to R105) -/

/-- The bits of a byte put together are the bits it was put together from. -/
theorem byteOfBits_getLsbD (b7 b6 b5 b4 b3 b2 b1 b0 : Bool) :
    let v := byteOfBits b7 b6 b5 b4 b3 b2 b1 b0
    v.getLsbD 7 = b7 ∧ v.getLsbD 6 = b6 ∧ v.getLsbD 5 = b5 ∧ v.getLsbD 4 = b4 ∧ v.getLsbD 3 = b3 ∧ v.getLsbD 2 = b2 ∧
      v.getLsbD 1 = b1 ∧ v.getLsbD 0 = b0 := by
  revert b7 b6 b5 b4 b3 b2 b1 b0
  decide

theorem driveWP_iff :
    driveWP s = true ↔ ∃ d, s.fdc.currentDrive = some d ∧ (s.drives.get d).writeProtected = true := by
  cases h : s.fdc.currentDrive <;> simp [driveWP, curDrive, h]

theorem onTrackZero_iff :
    onTrackZero s = true ↔ ∃ d, s.fdc.currentDrive = some d ∧ (s.drives.get d).physicalTrack = 0 := by
  cases h : s.fdc.currentDrive <;> simp [onTrackZero, curDrive, h]

theorem indexDetect_iff : indexDetect s = true ↔ s.fdc.motorOn = true ∧ diskAngle s < 10000 := by
  rw [indexDetect, Bool.and_eq_true, decide_eq_true_iff, Config.indexPulseEnd]

theorem typeILayout_iff (c : Command) :
    c.typeILayout = true ↔ c ∈ [.restore, .seek, .step, .reset, .forceInterrupt, .forceInterruptImmediate] := by
  cases c <;> decide

theorem not_typeILayout_iff (c : Command) :
    c.typeILayout = false ↔ c ∈ [.readSector, .writeSector, .readAddress, .readTrack, .writeTrack] := by
  cases c <;> decide

/-- The commands that search for a sector header are those with a data transfer that are no track command (R104). -/
theorem sector_command_eq {c : Command} (h : c.typeILayout = false) :
    (c == .readSector || c == .writeSector || c == .readAddress) = decide (c ≠ .readTrack ∧ c ≠ .writeTrack) := by
  revert h
  cases c <;> decide

theorem write_command_eq (c : Command) :
    (c == .writeSector || c == .writeTrack) = decide (c = .writeSector ∨ c = .writeTrack) := by
  cases c <;> rfl

/-- Settles O42: an enabled status read acknowledges `FdcNmi` and answers `Status`, whose bits are read off its layout. -/
theorem statusRead : Obligations.StatusRead := by
  refine ⟨fun s h => fdcRead_disabled _ _ _ h, fun s h => ⟨statusByte s, fdcRead_enabled _ _ _ h, ?_⟩⟩
  rw [← typeILayout_iff, ← not_typeILayout_iff, statusByte]
  cases hl : s.fdc.command.typeILayout with
  | true =>
    have hbits := byteOfBits_getLsbD (!s.fdc.motorOn) (driveWP s) s.fdc.motorOn s.fdc.seekError s.fdc.crcError
      (onTrackZero s) (indexDetect s) s.fdc.busy
    rw [← statusTypeI] at hbits
    obtain ⟨h7, h6, h5, h4, h3, h2, h1, h0⟩ := hbits
    rw [if_pos rfl, h7, h6, h5, h4, h3, h2, h1, h0]
    exact ⟨rfl, rfl, fun _ => ⟨driveWP_iff, rfl, rfl, rfl, onTrackZero_iff, indexDetect_iff⟩, nofun⟩
  | false =>
    have hbits := byteOfBits_getLsbD (!s.fdc.motorOn)
      (s.fdc.writeProtected && (s.fdc.command == .writeSector || s.fdc.command == .writeTrack))
      (s.fdc.sectorDeleted && s.fdc.command == .readSector)
      (s.fdc.seekError &&
        (s.fdc.command == .readSector || s.fdc.command == .writeSector || s.fdc.command == .readAddress))
      (s.fdc.crcError &&
        (s.fdc.command == .readSector || s.fdc.command == .writeSector || s.fdc.command == .readAddress))
      s.fdc.lostData s.fdc.drq s.fdc.busy
    rw [← statusTypeII] at hbits
    rw [sector_command_eq hl, write_command_eq] at hbits
    obtain ⟨h7, h6, h5, h4, h3, h2, h1, h0⟩ := hbits
    exact ⟨h7, h0, nofun, fun _ => ⟨h6, h5, h4, h3, h2, h1⟩⟩

end

/-! ## Command bytes (R230, R401) -/

/-- The bytes of Type IV are 0xD0 to 0xDF (30_encoding.md R95). -/
theorem encodeByte_of_aborts {i : Instr} (h : aborts i = true) : (encodeByte i).extractLsb' 4 4 = 0xD#4 := by
  cases i with
  | reset | forceintD1 | forceintimm | forceintD9 => rfl
  | forceintD2 x | forceintD4 x | forceintDA x | forceintDC x => revert x; decide
  | restore | seek | step | stepIn | stepOut | rdsec | wrsec | rdaddr | rdtrk | wrtrk => cases h

/-- A command of Type I, II or III is one that the table of R241 has rows for. -/
theorem exec_starts {i : Instr} (h : aborts i = false) :
    ∃ c, dispatchHolds c .nmi = true ∧ ∀ s, exec i s = startCommand (encodeByte i) c s := by
  cases i with
  | restore => exact ⟨.restore, rfl, fun _ => rfl⟩
  | seek => exact ⟨.seek, rfl, fun _ => rfl⟩
  | step | stepIn | stepOut => exact ⟨.step, rfl, fun _ => rfl⟩
  | rdsec => exact ⟨.readSector, rfl, fun _ => rfl⟩
  | wrsec => exact ⟨.writeSector, rfl, fun _ => rfl⟩
  | rdaddr => exact ⟨.readAddress, rfl, fun _ => rfl⟩
  | rdtrk => exact ⟨.readTrack, rfl, fun _ => rfl⟩
  | wrtrk => exact ⟨.writeTrack, rfl, fun _ => rfl⟩
  | reset | forceintD1 | forceintD2 | forceintD4 | forceintimm | forceintD9 | forceintDA | forceintDC => cases h

/-- A byte of Type IV aborts at once. -/
theorem exec_aborts {i : Instr} (h : aborts i = true) :
    (∀ s, exec i s = writeReset (encodeByte i) s) ∨
      ∃ c, ∀ s, exec i s = writeForceInterrupt (encodeByte i) c s := by
  cases i with
  | reset => exact .inl fun _ => rfl
  | forceintimm => exact .inr ⟨.forceInterruptImmediate, fun _ => rfl⟩
  | forceintD1 | forceintD2 | forceintD4 | forceintD9 | forceintDA | forceintDC =>
    exact .inr ⟨.forceInterrupt, fun _ => rfl⟩
  | restore | seek | step | stepIn | stepOut | rdsec | wrsec | rdaddr | rdtrk | wrtrk => cases h

/-- Settles O5: both kinds of command bytes look at `enabled` first, and a command start at `busy` next. -/
theorem commandsTurnedAway : Obligations.CommandsTurnedAway := by
  refine ⟨fun i s he => ?_, fun i s he hb hn => ?_⟩
  · cases ha : aborts i with
    | false => obtain ⟨c, -, hx⟩ := exec_starts ha; simp [hx, startCommand, he]
    | true =>
      obtain hx | ⟨c, hx⟩ := exec_aborts ha
      · simp [hx, writeReset, he]
      · simp [hx, writeForceInterrupt, he]
  · have ha : aborts i = false := Bool.eq_false_of_not_eq_true fun ha => hn (encodeByte_of_aborts ha)
    obtain ⟨c, -, hx⟩ := exec_starts ha
    simp [hx, startCommand, he, hb]

/-- A byte that decodes runs as its instruction (R230). -/
theorem writeCommandPort_of_decode {v : Byte} {i : Instr} {rest : List Byte} (h : decode [v] = .ok (i, rest)) (s : State) :
    writeCommandPort v s = exec i s := by
  rw [writeCommandPort, h]

/-- A table word of eight bits is one byte, the command byte that its input writes. -/
theorem decode_of_decodeTableWord {w : Nat} {i : Instr} (h : decodeTableWord 8 w = some i) :
    ∃ rest, decode [(tableBytes 8 w).headD 0x00#8] = .ok (i, rest) := by
  unfold decodeTableWord at h
  split at h
  · rename_i j rest hd
    cases h
    exact ⟨rest, hd⟩
  · cases h

theorem step_of_input {s : State} {i : Input} {rest : List Input} (h : s.inputs = i :: rest) :
    step s = perform i (beginStep rest s) := by
  rw [step, runStep, h]

/-- Settles O4: the step performs the write at the head of the inputs, and the write runs the decoded instruction. -/
theorem stepRunsDecodedCommand : Obligations.StepRunsDecodedCommand := by
  refine ⟨fun s i v rest hin hd _ => ?_, fun s w i hw => ?_⟩
  · rw [step_of_input hin]
    exact writeCommandPort_of_decode hd _
  · obtain ⟨rest, hd⟩ := decode_of_decodeTableWord hw
    rw [step_of_input (s := s.withFetchWord 8 w) rfl]
    exact writeCommandPort_of_decode hd _

end Sys2Proof.Machine
end

section
/-! SUPPORT. The media under one run of the sequencer, said once: the tracks it ends with, and where it stops. A run leaves
every track as it is, or writes the logical byte under the head in a state of WriteSector or WriteTrack; it stops only at a
track with no byte or of odd length, or on a pair outside the table (20_memory.md R67 to R72, 42_fdc_ports_dispatch.md
R241). -/

namespace Sys2Proof.Machine

/-- The tracks of the four drives, and the length of the bound one. -/
structure MediaView where
  tracks : DriveId → Nat → Bool → Option Track
  len : Nat

/-- The media as the sequencer finds them in `s`. -/
def mediaView (s : State) : MediaView := { tracks := trackAt s, len := trackLen s }

/-- The media of `s` with the byte `v` and its mark under the head (R68). -/
def writtenView (v : Byte) (m : Bool) (s : State) : MediaView :=
  { tracks := fun d c sd =>
      if s.fdc.currentDrive = some d ∧ c = (s.drives.get d).physicalTrack ∧ sd = s.fdc.sideOneSelected then
        (trackAt s d c sd).map fun t => t.putLogical s.fdc.doubleDensity (trackDataIndex s) v m
      else trackAt s d c sd
    len := trackLen s }

/-- The outcome of a rule that has made the media `p`: a next state with these tracks, or a stop at the head. -/
def Leaves (p : MediaView) : Host.Outcome State Fault Refusal → Prop
  | .next t => trackAt t = p.tracks
  | .fault _ => p.len = 0
  | .refused r => r = .oddTrackLength

section

variable {s t u : State} {p : MediaView} {f : State → Host.Outcome State Fault Refusal} {st : OpStatus}

/-! ## The operations the sequencer shares -/

/-- A media read takes at most a draw (20_memory.md R67). -/
theorem afterTrackRead_frame (s : State) : ∃ n, afterTrackRead s = { s with draws := n } := by
  unfold afterTrackRead
  split <;> exact ⟨_, rfl⟩

theorem afterTrackRead_media (s : State) : mediaView (afterTrackRead s) = mediaView s := by
  obtain ⟨n, hn⟩ := afterTrackRead_frame s
  rw [hn]
  rfl

theorem trackWrite_media (v : Byte) (m : Bool) (s : State) :
    mediaView (trackWrite (trackDataIndex s) v m s) = writtenView v m s := by
  unfold mediaView writtenView
  rw [trackLen_trackWrite]
  congr
  funext d c sd
  exact trackAt_trackWrite _ v m s d c sd

theorem writeCounted_media (v : Byte) (s : State) : mediaView (writeCounted v s) = writtenView v false s :=
  trackWrite_media v false s

/-- The head is on the track, so a rule at the head faults on an empty track only (40_clock_scheduler.md R149). -/
theorem withHead_leaves (hlen : trackLen s = p.len) (h : Leaves p (f s)) : Leaves p (withHead f s) := by
  unfold withHead
  split
  · rename_i hout
    by_contra hne
    exact absurd (trackDataIndex_lt (Nat.pos_of_ne_zero (hlen ▸ hne))) (Nat.not_lt.mpr hout)
  · split
    · exact rfl
    · exact h

theorem next_leaves (h : mediaView t = p) : Leaves p (.next t) := congrArg MediaView.tracks h

theorem waitBytes_leaves {n : Nat} (h : mediaView s = p) : Leaves p (waitBytes n st s) :=
  withHead_leaves (congrArg MediaView.len h) (next_leaves h)

theorem startSearch_leaves (h : mediaView s = p) : Leaves p (startSearch st s) := waitBytes_leaves h

theorem delayOrSearch_leaves (h : mediaView s = p) : Leaves p (delayOrSearch st s) := by
  unfold delayOrSearch
  split
  · exact next_leaves h
  · exact startSearch_leaves h

theorem seekingIDAM_leaves (s : State) : Leaves (mediaView s) (seekingIDAM s) := by
  unfold seekingIDAM
  split
  · exact next_leaves rfl
  · refine withHead_leaves rfl ?_
    split
    · exact waitBytes_leaves (afterTrackRead_media s)
    · exact waitBytes_leaves rfl

theorem headerByte_leaves {b : Byte} (hf : ∀ u, mediaView u = p → Leaves p (f u)) (h : mediaView s = p) :
    Leaves p (headerByte b f s) := by
  unfold headerByte
  split
  · exact hf _ h
  · exact waitBytes_leaves h

theorem readingAddressData_leaves (hf : ∀ u, mediaView u = mediaView s → Leaves (mediaView s) (f u)) :
    Leaves (mediaView s) (readingAddressData f s) :=
  withHead_leaves rfl (headerByte_leaves hf (afterTrackRead_media s))

theorem endRecord_leaves (h : mediaView s = p) : Leaves p (endRecord s) := by
  unfold endRecord
  split
  · exact waitBytes_leaves h
  · exact next_leaves h

/-! ## Type I (43_fdc_type1.md) -/

/-- The tracks are those of the disks, wherever the heads stand. -/
theorem trackAt_of_floppies (h : ∀ d, (t.drives.get d).floppy = (s.drives.get d).floppy) : trackAt t = trackAt s := by
  funext d c sd
  unfold trackAt
  rw [h]

/-- A head moved leaves every track. -/
theorem trackAt_moveHead (d : DriveId) (n : Nat) (s : State) :
    trackAt { s with drives := s.drives.set d { s.drives.get d with physicalTrack := n } } = trackAt s :=
  trackAt_of_floppies fun k => by
    rw [Drives.get_set]
    split
    · rw [‹k = d›]
    · rfl

theorem stepHead_trackAt (s : State) : trackAt (stepHead s) = trackAt s := by
  unfold stepHead
  split
  · obtain ⟨d, -, -, h⟩ | h := stepUp_cases s <;> rw [h]
    exact trackAt_moveHead d _ s
  · obtain ⟨d, -, -, h⟩ | h := stepDown_cases s <;> rw [h]
    exact trackAt_moveHead d _ s

theorem checkVerify_trackAt (s : State) : trackAt (checkVerify s) = trackAt s := by
  unfold checkVerify
  split <;> rfl

theorem endStepPass_trackAt (s : State) : trackAt (endStepPass s) = trackAt s := by
  unfold endStepPass
  split_ifs <;> rfl

theorem countStep_trackAt (s : State) : trackAt (countStep s) = trackAt s := by
  unfold countStep
  split <;> rfl

theorem stepPass_trackAt (s : State) : trackAt (stepPass s) = trackAt s :=
  (endStepPass_trackAt _).trans ((stepHead_trackAt _).trans (countStep_trackAt s))

theorem typeIStep_trackAt (s : State) : trackAt (typeIStep s) = trackAt s := by
  unfold typeIStep
  split_ifs
  · exact checkVerify_trackAt { s with fdc.opStatus := .checkVerify }
  · exact stepPass_trackAt { s with fdc.lastStepDirUp := _ }
  · exact stepPass_trackAt s

theorem typeIPrepare_trackAt (s : State) : trackAt (typeIPrepare s) = trackAt s :=
  typeIStep_trackAt { typeIDecode s with fdc.opStatus := .step }

theorem verifyTrack_leaves (h : mediaView s = p) : Leaves p (verifyTrack s) := by
  unfold verifyTrack
  split
  · exact next_leaves h
  · exact waitBytes_leaves h

/-! ## ReadSector and WriteSector (44_fdc_type2.md) -/

theorem typeIIPrepare_leaves (s : State) : Leaves (mediaView s) (typeIIPrepare s) := by
  unfold typeIIPrepare
  split
  · exact next_leaves rfl
  · exact delayOrSearch_leaves rfl

theorem typeIIHeader_leaves (h : mediaView s = p) : Leaves p (typeIIHeader s) := by
  unfold typeIIHeader beginTransfer
  split_ifs
  · exact waitBytes_leaves h
  · exact next_leaves h
  · exact waitBytes_leaves h
  · exact waitBytes_leaves h

theorem seekingDAM_leaves (s : State) : Leaves (mediaView s) (seekingDAM s) := by
  refine withHead_leaves rfl ?_
  have hr := afterTrackRead_media s
  unfold seekingDAMByte
  split_ifs <;> exact waitBytes_leaves hr

theorem readSectorData_leaves (s : State) : Leaves (mediaView s) (readSectorData s) := by
  refine withHead_leaves rfl ?_
  have hr := afterTrackRead_media s
  unfold afterDataByte
  split <;> exact waitBytes_leaves hr

theorem readCRCHigh_leaves (s : State) : Leaves (mediaView s) (readCRCHigh s) :=
  withHead_leaves rfl (waitBytes_leaves (afterTrackRead_media s))

theorem readCRCLow_leaves (s : State) : Leaves (mediaView s) (readCRCLow s) := by
  refine withHead_leaves rfl ?_
  have hr := afterTrackRead_media s
  unfold checkDataCrc
  split
  · exact next_leaves hr
  · exact endRecord_leaves hr

theorem drqCheck_leaves (s : State) : Leaves (mediaView s) (drqCheck s) := by
  unfold drqCheck
  split
  · exact next_leaves rfl
  · exact waitBytes_leaves rfl

theorem writeFiller_leaves (s : State) : Leaves (writtenView 0x00#8 false s) (writeFiller s) := by
  refine withHead_leaves rfl ?_
  have hw := writeCounted_media 0x00#8 s
  dsimp only
  split_ifs <;> exact waitBytes_leaves hw

theorem writeSync_leaves (s : State) : Leaves (writtenView 0xA1#8 false s) (writeSync s) := by
  refine withHead_leaves rfl ?_
  have hw := writeCounted_media 0xA1#8 s
  dsimp only
  split <;> exact waitBytes_leaves hw

theorem writeDAM_leaves (s : State) : Leaves (writtenView (damByte s) false s) (writeDAM s) :=
  withHead_leaves rfl (waitBytes_leaves (trackWrite_media _ false (startCrc (damByte s) s)))

theorem writeSectorData_leaves (s : State) : Leaves (writtenView (takenByte s) false s) (writeSectorData s) := by
  refine withHead_leaves rfl ?_
  have hw := writeCounted_media (takenByte s) (noteTaken s)
  dsimp only
  split <;> exact waitBytes_leaves hw

theorem writeCRCHigh_leaves (s : State) : Leaves (writtenView (splitCrc s).fdc.crcHigh false s) (writeCRCHigh s) :=
  withHead_leaves rfl (waitBytes_leaves (trackWrite_media _ false (splitCrc s)))

theorem writeSectorCRCLow_leaves (s : State) : Leaves (writtenView s.fdc.crcLow false s) (writeSectorCRCLow s) :=
  withHead_leaves rfl (waitBytes_leaves (trackWrite_media _ false s))

theorem writeTrailer_leaves (s : State) : Leaves (writtenView 0xFF#8 false s) (writeTrailer s) :=
  withHead_leaves rfl (endRecord_leaves (trackWrite_media _ false s))

/-! ## ReadAddress, ReadTrack and WriteTrack (45_fdc_type3.md) -/

theorem readAddressByte_leaves (s : State) : Leaves (mediaView s) (readAddressByte s) :=
  withHead_leaves rfl (headerByte_leaves (fun _ hu => next_leaves hu) (afterTrackRead_media s))

theorem readTrackData_leaves (h : mediaView s = p) : Leaves p (readTrackData s) := by
  unfold readTrackData
  split
  · exact next_leaves h
  · exact withHead_leaves (congrArg MediaView.len h) (waitBytes_leaves ((afterTrackRead_media s).trans h))

theorem readTrackIndexHole_leaves (s : State) : Leaves (mediaView s) (readTrackIndexHole s) := by
  unfold readTrackIndexHole
  split
  · exact readTrackData_leaves rfl
  · exact waitBytes_leaves rfl

theorem writeTrackPrepare_leaves (s : State) : Leaves (mediaView s) (writeTrackPrepare s) := by
  unfold writeTrackPrepare
  split
  · exact next_leaves rfl
  · exact delayOrSearch_leaves rfl

/-- `Transform` touches the CRC registers and the count of draws only (R383 to R385). -/
theorem transformState_frame (b : Byte) (s : State) :
    ∃ c hi lo n, transformState b s = { s with fdc.crc := c, fdc.crcHigh := hi, fdc.crcLow := lo, draws := n } := by
  obtain ⟨n, hn⟩ := afterTrackRead_frame s
  unfold transformState
  rw [hn]
  split_ifs <;> exact ⟨_, _, _, _, rfl⟩

theorem writeTrackByte_leaves (b : Byte) (s : State) :
    Leaves (writtenView (transform b s).out (transform b s).mark s) (writeTrackByte b s) := by
  have hw := trackWrite_media (transform b s).out (transform b s).mark (transformState b s)
  unfold writeTrackByte
  obtain ⟨c, hi, lo, n, hs⟩ := transformState_frame b s
  rw [hs] at hw ⊢
  dsimp only
  split <;> exact waitBytes_leaves hw

/-- Where the index hole is past, WriteTrack ends; before it, the byte goes under the head (R381). -/
theorem writeTrackData_leaves (s : State) :
    Leaves (mediaView s) (writeTrackData s) ∨ ∃ v m, Leaves (writtenView v m s) (writeTrackData s) := by
  unfold writeTrackData
  split
  · exact .inl (next_leaves rfl)
  · exact .inr ⟨_, _, withHead_leaves rfl (writeTrackByte_leaves _ (noteTaken s))⟩

theorem writeTrackIndexHole_leaves (s : State) :
    Leaves (mediaView s) (writeTrackIndexHole s) ∨ ∃ v m, Leaves (writtenView v m s) (writeTrackIndexHole s) := by
  unfold writeTrackIndexHole
  split
  · exact writeTrackData_leaves { resetIndexCount s with fdc.crc := _, fdc.opStatus := _ }
  · exact .inl (waitBytes_leaves rfl)

theorem writeTrackCRCLow_leaves (s : State) :
    Leaves (mediaView s) (writeTrackCRCLow s) ∨ ∃ v m, Leaves (writtenView v m s) (writeTrackCRCLow s) := by
  unfold writeTrackCRCLow
  split
  · exact .inl (next_leaves rfl)
  · exact .inr ⟨_, _, withHead_leaves rfl (waitBytes_leaves (trackWrite_media _ false s))⟩

end

/-! ## The dispatch (42_fdc_ports_dispatch.md R241) -/

/-- The sequencer stands in a state that writes: one of WriteSector's after the header, or one of WriteTrack's from the index
hole on. -/
def WritingState (s : State) : Prop :=
  (s.fdc.command = .writeSector ∧ s.fdc.opStatus ∈ [.writeFiller, .writeSync, .writeDAM, .writingData, .writeCRCHigh,
    .writeCRCLow, .writeTrailer]) ∨
  (s.fdc.command = .writeTrack ∧ s.fdc.opStatus ∈ [.seekingIndexHole, .writingData, .writeCRCLow])

/-- The table of R241 has no row for the pair, nor is it the `Prepare` of a command with rows. -/
def OutsideTable (s : State) : Prop :=
  dispatchHolds s.fdc.command s.fdc.opStatus = false ∧
    (s.fdc.opStatus = .prepare → dispatchHolds s.fdc.command .nmi = false)

/-- One run of the sequencer from `s`: it leaves the media, writes under the head in a state that writes, or has no row. -/
inductive Runs (s : State) (o : Host.Outcome State Fault Refusal) : Prop
  | leaves (h : Leaves (mediaView s) o)
  | writes (hw : WritingState s) (h : ∃ v m, Leaves (writtenView v m s) o)
  | noRow (ho : o = unreachableState) (h : OutsideTable s)

section

variable {s : State} {c : Command}

/-- No row for a state of the sequencer that is neither `Prepare` nor one the command has. -/
theorem noRow_runs {st : OpStatus} (hc : s.fdc.command = c) (ho : s.fdc.opStatus = st)
    (hd : dispatchHolds c st = false) (hp : st ≠ .prepare) : Runs s unreachableState :=
  .noRow rfl ⟨by rw [hc, ho]; exact hd, fun h => absurd (ho.symm.trans h) hp⟩

/-- In a writing state a rule that leaves the media or writes is a run. -/
theorem Runs.of_or {o : Host.Outcome State Fault Refusal} (hw : WritingState s)
    (h : Leaves (mediaView s) o ∨ ∃ v m, Leaves (writtenView v m s) o) : Runs s o :=
  h.elim .leaves (.writes hw)

theorem typeIAdvance_runs (hI : s.fdc.command ∈ [.restore, .seek, .step]) (hn : s.fdc.opStatus ≠ .nmi) :
    Runs s (typeIAdvance s) := by
  have noRow {st : OpStatus} (ho : s.fdc.opStatus = st) (hp : st ≠ .prepare)
      (hd : ∀ c ∈ [Command.restore, .seek, .step], dispatchHolds c st = false) : Runs s unreachableState :=
    noRow_runs rfl ho (hd _ hI) hp
  unfold typeIAdvance
  cases ho : s.fdc.opStatus
  case prepare => exact .leaves (typeIPrepare_trackAt s)
  case step => exact .leaves (typeIStep_trackAt s)
  case checkVerify => exact .leaves (checkVerify_trackAt s)
  case seekingIDAM => exact .leaves (seekingIDAM_leaves s)
  case readingAddressData => exact .leaves (readingAddressData_leaves fun _ => verifyTrack_leaves)
  case nmi => exact absurd ho hn
  all_goals exact noRow ho nofun (by decide)

theorem readSectorAdvance_runs (hc : s.fdc.command = .readSector) (hn : s.fdc.opStatus ≠ .nmi) :
    Runs s (readSectorAdvance s) := by
  unfold readSectorAdvance
  cases ho : s.fdc.opStatus
  case prepare => exact .leaves (typeIIPrepare_leaves s)
  case delay => exact .leaves (startSearch_leaves rfl)
  case seekingIDAM => exact .leaves (seekingIDAM_leaves s)
  case readingAddressData => exact .leaves (readingAddressData_leaves fun _ => typeIIHeader_leaves)
  case seekingDAM => exact .leaves (seekingDAM_leaves s)
  case readingData => exact .leaves (readSectorData_leaves s)
  case readCRCHigh => exact .leaves (readCRCHigh_leaves s)
  case readCRCLow => exact .leaves (readCRCLow_leaves s)
  case nmi => exact absurd ho hn
  all_goals exact noRow_runs hc ho rfl nofun

theorem writeSectorAdvance_runs (hc : s.fdc.command = .writeSector) (hn : s.fdc.opStatus ≠ .nmi) :
    Runs s (writeSectorAdvance s) := by
  have writes {o : Host.Outcome State Fault Refusal} {st : OpStatus} {v : Byte} {m : Bool} (ho : s.fdc.opStatus = st)
      (h : Leaves (writtenView v m s) o)
      (hst : st ∈ [.writeFiller, .writeSync, .writeDAM, .writingData, .writeCRCHigh, .writeCRCLow, .writeTrailer] := by
        decide) : Runs s o :=
    .writes (.inl ⟨hc, ho ▸ hst⟩) ⟨v, m, h⟩
  unfold writeSectorAdvance
  cases ho : s.fdc.opStatus
  case prepare => exact .leaves (typeIIPrepare_leaves s)
  case delay => exact .leaves (startSearch_leaves rfl)
  case seekingIDAM => exact .leaves (seekingIDAM_leaves s)
  case readingAddressData => exact .leaves (readingAddressData_leaves fun _ => typeIIHeader_leaves)
  case drqCheck => exact .leaves (drqCheck_leaves s)
  case writeFiller => exact writes ho (writeFiller_leaves s)
  case writeSync => exact writes ho (writeSync_leaves s)
  case writeDAM => exact writes ho (writeDAM_leaves s)
  case writingData => exact writes ho (writeSectorData_leaves s)
  case writeCRCHigh => exact writes ho (writeCRCHigh_leaves s)
  case writeCRCLow => exact writes ho (writeSectorCRCLow_leaves s)
  case writeTrailer => exact writes ho (writeTrailer_leaves s)
  case nmi => exact absurd ho hn
  all_goals exact noRow_runs hc ho rfl nofun

theorem readAddressAdvance_runs (hc : s.fdc.command = .readAddress) (hn : s.fdc.opStatus ≠ .nmi) :
    Runs s (readAddressAdvance s) := by
  unfold readAddressAdvance
  cases ho : s.fdc.opStatus
  case prepare => exact .leaves (delayOrSearch_leaves rfl)
  case delay => exact .leaves (startSearch_leaves rfl)
  case seekingIDAM => exact .leaves (seekingIDAM_leaves s)
  case readingAddressData => exact .leaves (readAddressByte_leaves s)
  case nmi => exact absurd ho hn
  all_goals exact noRow_runs hc ho rfl nofun

theorem readTrackAdvance_runs (hc : s.fdc.command = .readTrack) (hn : s.fdc.opStatus ≠ .nmi) :
    Runs s (readTrackAdvance s) := by
  unfold readTrackAdvance
  cases ho : s.fdc.opStatus
  case prepare => exact .leaves (delayOrSearch_leaves rfl)
  case delay => exact .leaves (startSearch_leaves rfl)
  case seekingIndexHole => exact .leaves (readTrackIndexHole_leaves s)
  case readingData => exact .leaves (readTrackData_leaves rfl)
  case nmi => exact absurd ho hn
  all_goals exact noRow_runs hc ho rfl nofun

theorem writeTrackAdvance_runs (hc : s.fdc.command = .writeTrack) (hn : s.fdc.opStatus ≠ .nmi) :
    Runs s (writeTrackAdvance s) := by
  have writing {st : OpStatus} (ho : s.fdc.opStatus = st) (hst : st ∈ [.seekingIndexHole, .writingData, .writeCRCLow]) :
      WritingState s := .inr ⟨hc, ho ▸ hst⟩
  unfold writeTrackAdvance
  cases ho : s.fdc.opStatus
  case prepare => exact .leaves (writeTrackPrepare_leaves s)
  case delay => exact .leaves (startSearch_leaves rfl)
  case seekingIndexHole => exact .of_or (writing ho (by decide)) (writeTrackIndexHole_leaves s)
  case writingData => exact .of_or (writing ho (by decide)) (writeTrackData_leaves s)
  case writeCRCLow => exact .of_or (writing ho (by decide)) (writeTrackCRCLow_leaves s)
  case nmi => exact absurd ho hn
  all_goals exact noRow_runs hc ho rfl nofun

theorem commandAdvance_runs (hn : s.fdc.opStatus ≠ .nmi) : Runs s (commandAdvance s) := by
  unfold commandAdvance
  cases hc : s.fdc.command
  case restore | seek | step => exact typeIAdvance_runs (by rw [hc]; decide) hn
  case readSector => exact readSectorAdvance_runs hc hn
  case writeSector => exact writeSectorAdvance_runs hc hn
  case readAddress => exact readAddressAdvance_runs hc hn
  case readTrack => exact readTrackAdvance_runs hc hn
  case writeTrack => exact writeTrackAdvance_runs hc hn
  case reset | forceInterrupt | forceInterruptImmediate =>
    exact .noRow rfl ⟨by rw [hc]; rfl, fun _ => by rw [hc]; rfl⟩

/-- Every run of the sequencer leaves the media, writes under the head in a state that writes, or has no row. -/
theorem fdcAdvance_runs (s : State) : Runs s (fdcAdvance s) := by
  unfold fdcAdvance
  split
  · exact .leaves (next_leaves rfl)
  · exact .leaves (next_leaves rfl)
  · exact commandAdvance_runs ‹_›

end

end Sys2Proof.Machine
end

section
/-! SUPPORT. The disks under every input: a step that is neither a media change nor the platform reset leaves every track, or
is a run of the sequencer that writes one logical byte under the head (20_memory.md R67, R68, R77). -/

namespace Sys2Proof.Machine

/-! ## A write changes no other position, whatever the form of the array -/

theorem cellRead_write_other {i j : Nat} (v : Byte) (cells : List Host.Cell) (h : j ≠ i) :
    cellRead (cellWrite cells i v) j = cellRead cells j := by
  induction cells with
  | nil =>
    unfold cellWrite
    split
    · rfl
    · exact if_neg h
  | cons c rest ih =>
    obtain ⟨a, w⟩ := c
    unfold cellWrite
    split_ifs with hlt hv heq hv
    · rfl
    · exact if_neg h
    · exact (if_neg (heq ▸ h)).symm
    · exact (if_neg h).trans (if_neg (heq ▸ h)).symm
    · rw [cellRead, cellRead, ih]

theorem contains_positionsPut_other {i j : Nat} (b : Bool) (ps : List Nat) (h : j ≠ i) :
    (positionsPut ps i b).contains j = ps.contains j := by
  unfold positionsPut
  induction ps with
  | nil => cases b <;> simp [positionsSet, positionsClear, h]
  | cons a rest ih =>
    cases b with
    | true =>
      simp only [if_true, positionsSet] at ih ⊢
      split_ifs
      · simp [h]
      · rfl
      · rw [List.contains_cons, List.contains_cons, ih]
    | false =>
      simp only [Bool.false_eq_true, if_false, positionsClear] at ih ⊢
      split_ifs with heq
      · simp [← heq, h]
      · rw [List.contains_cons, List.contains_cons, ih]

theorem Memory.read?_write_other {i j : Nat} (v : Byte) (mem : Memory) (h : j ≠ i) :
    (mem.write i v).read? j = mem.read? j := by
  unfold Memory.write
  split
  · rw [Memory.read?, Memory.read?, cellRead_write_other v mem.cells h]
  · rfl

theorem Track.put_other {t : Track} {i j : Nat} (v : Byte) (m : Bool) (h : j ≠ i) :
    (t.put i v m).data.read? j = t.data.read? j ∧ (t.put i v m).idam.contains j = t.idam.contains j := by
  unfold Track.put
  split
  · exact ⟨Memory.read?_write_other v t.data h, contains_positionsPut_other m t.idam h⟩
  · exact ⟨rfl, rfl⟩

/-- A position that a logical byte changes is one of those it fills (R68). -/
theorem Track.putLogical_changes {t : Track} {dd : Bool} {i j : Nat} {v : Byte} {m : Bool}
    (h : (t.putLogical dd i v m).data.read? j ≠ t.data.read? j ∨
      (t.putLogical dd i v m).idam.contains j ≠ t.idam.contains j) :
    j = i ∨ dd = false ∧ j = (i + 1) % t.data.size := by
  by_contra hne
  obtain ⟨hi, hnext⟩ := not_or.mp hne
  have hfirst := Track.put_other (t := t) v m hi
  unfold Track.putLogical at h
  cases dd with
  | true => exact h.elim (absurd hfirst.1) (absurd hfirst.2)
  | false =>
    have hsecond := Track.put_other (t := t.put i v m) v false fun he => hnext ⟨rfl, he⟩
    exact h.elim (absurd (hsecond.1.trans hfirst.1)) (absurd (hsecond.2.trans hfirst.2))

section

variable {s t u : State}

/-! ## Places and their tracks -/

theorem boundTrack_of_trackAt {d : DriveId} {tr : Track} (hd : s.fdc.currentDrive = some d)
    (ht : trackAt s d (s.drives.get d).physicalTrack s.fdc.sideOneSelected = some tr) :
    boundTrack s = some tr ∧ trackLen s = tr.data.size := by
  have hb := (boundTrack_trackAt hd).trans ht
  exact ⟨hb, trackLen_of_bound hb⟩

theorem media_of_trackAt {d : DriveId} {c : Nat} {sd : Bool} {i : Nat} (h : trackAt t d c sd = trackAt s d c sd) :
    mediaByte t d c sd i = mediaByte s d c sd i ∧ mediaMark t d c sd i = mediaMark s d c sd i := by
  unfold mediaByte mediaMark
  rw [h]
  exact ⟨rfl, rfl⟩

/-- A place whose byte or mark a media write changes is under the head. -/
theorem underHead_of_written {v : Byte} {m : Bool} {d : DriveId} {c : Nat} {sd : Bool} {i : Nat}
    (ht : trackAt t = (writtenView v m s).tracks)
    (hne : mediaByte t d c sd i ≠ mediaByte s d c sd i ∨ mediaMark t d c sd i ≠ mediaMark s d c sd i) :
    Claims.underHead s d c sd i := by
  replace ht : trackAt t d c sd = _ := congrFun (congrFun (congrFun ht d) c) sd
  dsimp only [writtenView] at ht
  split at ht
  · rename_i hplace
    obtain ⟨hd, rfl, rfl⟩ := hplace
    cases hs : trackAt s d (s.drives.get d).physicalTrack s.fdc.sideOneSelected with
    | none =>
      rw [hs] at ht
      obtain ⟨hb, hm⟩ := media_of_trackAt (i := i) (ht.trans hs.symm)
      exact (hne.elim (· hb) (· hm)).elim
    | some tr =>
      rw [hs, Option.map_some] at ht
      obtain ⟨hbound, hlen⟩ := boundTrack_of_trackAt hd hs
      simp only [mediaByte, mediaMark, ht, hs] at hne
      exact ⟨hd, rfl, rfl, by rw [hbound]; rfl, hlen ▸ Track.putLogical_changes hne⟩
  · obtain ⟨hb, hm⟩ := media_of_trackAt (i := i) ht
    exact (hne.elim (· hb) (· hm)).elim

/-! ## Steps that leave the tracks or write under the head -/

/-- Every track is as before, or in a state that writes one logical byte went under the head. -/
def DisksStep (s t : State) : Prop :=
  trackAt t = trackAt s ∨ WritingState s ∧ ∃ v m, trackAt t = (writtenView v m s).tracks

theorem DisksStep.of_drives (h : t.drives = s.drives) : DisksStep s t :=
  .inl (trackAt_of_floppies fun d => by rw [h])

theorem fdcAdvance_disksStep (h : fdcAdvance s = .next t) : DisksStep s t := by
  have hr := fdcAdvance_runs s
  rw [h] at hr
  cases hr with
  | leaves h => exact .inl h
  | writes hw h => exact .inr ⟨hw, h⟩
  | noRow ho => cases ho

/-- The check of a poll's target leaves at most an event (60_exceptions.md R447). -/
theorem noteSync_frame (s : State) : ∃ o, noteSync s = { s with outputs := o } := by
  unfold noteSync
  split <;> exact ⟨_, rfl⟩

theorem runCallback_disksStep {cb : Callback} (h : runCallback cb s = .next t) : DisksStep s t := by
  cases cb with
  | fdcAdvance => exact fdcAdvance_disksStep h
  | poll =>
    rw [runCallback_poll, poll_eq] at h
    obtain ⟨o, ho⟩ := noteSync_frame s
    rw [ho] at h
    have hd := fdcAdvance_disksStep h
    exact hd
  | motorOnCallback | motorOffCallback =>
    cases h
    exact .of_drives rfl
  | cassetteReadCallback => exact .of_drives (cassetteReadCallback_deckWorked h).drives

theorem fire_disksStep (h : fire s = .next t) : DisksStep s t := by
  obtain ⟨q, -, h⟩ := fire_next h
  have hd := runCallback_disksStep h
  exact hd

/-- A command starts in `Prepare`, which writes nothing (42_fdc_ports_dispatch.md R240). -/
theorem acceptCommand_not_writing (v : Byte) (c : Command) (s : State) : ¬ WritingState (acceptCommand v c s) := by
  rintro (⟨-, h⟩ | ⟨-, h⟩) <;> simp [acceptCommand_fdc] at h

theorem exec_disksStep {i : Instr} (h : exec i s = .next t) : DisksStep s t := by
  obtain rfl | ⟨-, v, c, h⟩ | ⟨v, c, rfl⟩ | ⟨v, c, rfl⟩ := exec_next h
  · exact .of_drives rfl
  · exact (fdcAdvance_disksStep h).imp id fun hw => absurd hw.1 (acceptCommand_not_writing v c s)
  · exact .of_drives rfl
  · exact .of_drives rfl

theorem portOut_disksStep {n v : Byte} (h : portOut n v s = .next t) : DisksStep s t := by
  obtain rfl | ⟨i, h⟩ | rfl | rfl | rfl | rfl | rfl | h := portOut_next h
  · exact .of_drives rfl
  · exact exec_disksStep h
  · exact .of_drives rfl
  · exact .of_drives rfl
  · exact .of_drives rfl
  · exact .of_drives (selectDrive_drives v s)
  · exact .of_drives rfl
  · exact .of_drives (cassetteWrite_deckWorked h).drives

/-- The disks under every input but a media change and the platform reset. -/
theorem perform_disksStep {i : Input} (hr : i ≠ .platformReset) (hm : ∀ d f wp, i ≠ .mediaChange d f wp)
    (h : perform i s = .next t) : DisksStep s t := by
  have deck (w : DeckWorked s t) : DisksStep s t := .of_drives w.drives
  cases i with
  | portOut n v => exact portOut_disksStep h
  | portIn n => obtain ⟨e, u, rfl, rfl | rfl | rfl | rfl⟩ := portIn_next h <;> exact .of_drives rfl
  | fire => exact fire_disksStep h
  | advance d => obtain ⟨rfl, -, -⟩ := advance_next h; exact .of_drives rfl
  | setMotorSignal b => exact deck (setMotorSignal_deckWorked h)
  | play => exact deck (play_deckWorked h)
  | record => exact deck (record_deckWorked h)
  | stop => cases h; exact deck (stopTape_deckWorked s)
  | rewind => exact deck (rewind_deckWorked h)
  | insertTape bytes => exact deck (insertTape_deckWorked h)
  | unlatch l => cases h; exact .of_drives rfl
  | mediaChange d f wp => exact absurd rfl (hm d f wp)
  | platformReset => exact absurd rfl hr

/-- A step that changes no media performs no media change. -/
theorem ne_mediaChange_of_head {i : Input} (hc : changesMediaNext s = false)
    (hi : s.inputs.head? = some i ∨ i = .fire ∨ ∃ d, i = .advance d) (d : DriveId) (f : Option FloppyImage) (wp : Bool) :
    i ≠ .mediaChange d f wp := by
  rintro rfl
  obtain hi | hi | ⟨n, hi⟩ := hi
  · rw [changesMediaNext, hi] at hc
    cases hc
  · cases hi
  · cases hi

end

/-- Settles O57: a step leaves every track or writes under the head, and a media write changes no other place. -/
theorem onlyWritesChangeDisks : Obligations.OnlyWritesChangeDisks := by
  intro s t h hr hc d c sd i hne
  obtain ⟨inp, rest, hreset, h, hi⟩ := step_performs_of_not_reset hr h
  obtain hsame | ⟨hw, v, m, ht⟩ := perform_disksStep hreset (ne_mediaChange_of_head hc hi) h
  · obtain ⟨hb, hm⟩ := media_of_trackAt (i := i) (congrFun (congrFun (congrFun hsame d) c) sd)
    exact (hne.elim (· hb) (· hm)).elim
  · exact ⟨underHead_of_written (s := beginStep rest s) ht hne, hw⟩

end Sys2Proof.Machine
end

section
/-! SUPPORT. Where a step stops: with the invariant every media and tape access lies inside its array, every run of the
sequencer has its row, and what the block does by itself is always enabled (10_state.md R46, 42_fdc_ports_dispatch.md R241,
40_clock_scheduler.md R131, R142). -/

namespace Sys2Proof.Machine

/-- The outcome is no fault, and a refusal only for one of the reasons `ok`. -/
def StopsOnly (ok : Refusal → Prop) : Host.Outcome State Fault Refusal → Prop
  | .next _ => True
  | .fault _ => False
  | .refused r => ok r

theorem StopsOnly.mono {ok ok' : Refusal → Prop} {o : Host.Outcome State Fault Refusal} (h : StopsOnly ok o)
    (hok : ∀ r, ok r → ok' r) : StopsOnly ok' o := by
  cases o with
  | next => trivial
  | fault => exact h
  | refused r => exact hok r h

section

variable {s t : State} {ok : Refusal → Prop} {f : State → Host.Outcome State Fault Refusal}

/-! ## The sequencer -/

/-- The bound track has at least one byte (R60, R148). -/
theorem trackLen_pos (h : MediaInv s) : 1 ≤ trackLen s := by
  cases hb : boundTrack s with
  | none =>
    rw [trackLen_unbound hb]
    split <;> decide
  | some tr =>
    cases hd : s.fdc.currentDrive with
    | none => rw [boundTrack_no_drive hd] at hb; cases hb
    | some d =>
      have ht := (boundTrack_trackAt hd).symm.trans hb
      have hwf := h d
      unfold trackAt at ht
      split at ht
      · cases ht
      · rename_i img hi
        rw [hi] at hwf
        have htr := findTrack_wf hwf ht
        simp only [Track.wf, Bool.and_eq_true, decide_eq_true_eq] at htr
        rw [trackLen_of_bound hb]
        exact le_trans (by decide) htr.1.1

/-- A run that has its row stops only over a track of odd length in single density (20_memory.md R72). -/
theorem fdcAdvance_stopsOnly (hlen : 1 ≤ trackLen s) (hrow : ¬ OutsideTable s) :
    StopsOnly (· = .oddTrackLength) (fdcAdvance s) := by
  have stops {p : MediaView} (hp : p.len = trackLen s) (h : Leaves p (fdcAdvance s)) :
      StopsOnly (· = .oddTrackLength) (fdcAdvance s) := by
    cases ho : fdcAdvance s with
    | next => trivial
    | fault =>
      rw [ho] at h
      exact absurd (hp.symm.trans h) (Nat.ne_of_gt hlen)
    | refused =>
      rw [ho] at h
      exact h
  cases fdcAdvance_runs s with
  | leaves h => exact stops rfl h
  | writes _ h => obtain ⟨v, m, h⟩ := h; exact stops rfl h
  | noRow _ h => exact absurd h hrow

theorem not_outsideTable_of_dispatchHolds (h : dispatchHolds s.fdc.command s.fdc.opStatus = true) : ¬ OutsideTable s :=
  fun ho => absurd h (by rw [ho.1]; decide)

theorem not_outsideTable_acceptCommand {c : Command} (v : Byte) (hc : dispatchHolds c .nmi = true) (s : State) :
    ¬ OutsideTable (acceptCommand v c s) :=
  fun ho => absurd (ho.2 rfl) (by rw [acceptCommand_fdc, hc]; decide)

/-! ## Command bytes and the ports -/

theorem exec_stopsOnly (h : MediaInv s) (i : Instr) :
    StopsOnly (fun r => r = .commandWhileBusy ∨ r = .oddTrackLength) (exec i s) := by
  cases ha : aborts i with
  | false =>
    obtain ⟨c, hc, hx⟩ := exec_starts ha
    rw [hx, startCommand]
    split_ifs
    · trivial
    · exact .inl rfl
    · exact (fdcAdvance_stopsOnly (trackLen_pos (s := acceptCommand _ c s) h)
        (not_outsideTable_acceptCommand _ hc s)).mono fun _ => .inr
  | true =>
    obtain hx | ⟨c, hx⟩ := exec_aborts ha
    · rw [hx, writeReset]
      split <;> trivial
    · rw [hx, writeForceInterrupt]
      split <;> trivial

/-- Every byte is a command byte (30_encoding.md R96). -/
theorem decodeByte_isSome : ∀ v : Byte, (decodeByte v).isSome = true := by decide

theorem writeCommandPort_exec (v : Byte) (s : State) : ∃ i, writeCommandPort v s = exec i s := by
  obtain ⟨i, hi⟩ := Option.isSome_iff_exists.mp (decodeByte_isSome v)
  exact ⟨i, writeCommandPort_of_decode (by rw [decode, hi]) s⟩

theorem withTape_of_lt (h : s.cas.byteCursor < s.cas.data.size) : withTape f s = f s := by
  rw [withTape, if_neg (Nat.not_le.mpr h)]

theorem cassetteWrite_stopsOnly (h : s.cas.byteCursor < s.cas.data.size) (v : Byte) :
    StopsOnly ok (cassetteWrite v s) := by
  unfold cassetteWrite
  rw [withTape_of_lt h]
  split_ifs <;> trivial

theorem portOut_stopsOnly (h : Inv s) (p v : Byte) : StopsOnly (·.ofInput = true) (portOut p v s) := by
  unfold portOut
  split_ifs
  · obtain ⟨i, hi⟩ := writeCommandPort_exec v s
    rw [hi]
    refine (exec_stopsOnly h.media i).mono fun r hr => ?_
    obtain rfl | rfl := hr <;> rfl
  · trivial
  · trivial
  · trivial
  · trivial
  · trivial
  · exact cassetteWrite_stopsOnly h.cassette.byteCursor v
  · exact rfl

theorem fdcRead_stopsOnly (p v : Byte) (g : State → State) (s : State) : StopsOnly ok (fdcRead p v g s) := by
  unfold fdcRead
  split <;> trivial

theorem portIn_stopsOnly (p : Byte) (s : State) : StopsOnly (·.ofInput = true) (portIn p s) := by
  unfold portIn
  split_ifs
  · exact fdcRead_stopsOnly ..
  · exact fdcRead_stopsOnly ..
  · exact fdcRead_stopsOnly ..
  · exact fdcRead_stopsOnly ..
  · exact rfl
  · trivial
  · exact rfl

/-! ## The cassette and its deck -/

theorem cassetteReadCallback_stopsOnly (h : s.cas.byteCursor < s.cas.data.size) :
    StopsOnly ok (cassetteReadCallback s) := by
  unfold cassetteReadCallback
  split
  · trivial
  · rw [withTape_of_lt h]
    trivial

theorem updateMotor_stopsOnly (h : s.cas.byteCursor < s.cas.data.size) : StopsOnly ok (updateMotor s) := by
  unfold updateMotor
  rw [withTape_of_lt h]
  dsimp only
  split_ifs <;> trivial

/-- A deck action is refused while the motor is engaged, and else stops where its body does. -/
theorem whileReleased_stopsOnly (h : StopsOnly (·.ofInput = true) (f s)) :
    StopsOnly (·.ofInput = true) (whileReleased f s) := by
  unfold whileReleased
  split
  · exact rfl
  · exact h

theorem play_stopsOnly (h : s.cas.byteCursor < s.cas.data.size) : StopsOnly (·.ofInput = true) (play s) := by
  unfold play
  exact whileReleased_stopsOnly (updateMotor_stopsOnly h)

theorem record_stopsOnly (h : s.cas.byteCursor < s.cas.data.size) : StopsOnly (·.ofInput = true) (record s) := by
  unfold record
  exact whileReleased_stopsOnly (updateMotor_stopsOnly h)

theorem rewind_stopsOnly (s : State) : StopsOnly (·.ofInput = true) (rewind s) := by
  unfold rewind
  exact whileReleased_stopsOnly trivial

theorem insertTape_stopsOnly (bytes : List Byte) (s : State) : StopsOnly (·.ofInput = true) (insertTape bytes s) := by
  refine whileReleased_stopsOnly ?_
  split
  · trivial
  · exact rfl

/-! ## The scheduler -/

/-- With the invariant a firing finds its request's callback enabled: it stops only over a track of odd length. -/
theorem fire_stopsOnly (h : Inv s) {q : RequestId} (hq : nextDue s = some q) :
    StopsOnly (· = .oddTrackLength) (fire s) := by
  have ha := nextDue_active hq
  unfold fire
  rw [hq]
  dsimp only
  cases q with
  | command =>
    have hd := h.fdc.dispatch (h.fdc.requestBusy ha)
    have hlen := trackLen_pos h.media
    rw [show (s.sched.get .command).callback = _ from h.requests.command ha]
    split
    · rw [runCallback_poll, poll_eq]
      obtain ⟨o, ho⟩ := noteSync_frame (expire .command s)
      rw [ho]
      exact fdcAdvance_stopsOnly hlen (not_outsideTable_of_dispatchHolds hd)
    · exact fdcAdvance_stopsOnly hlen (not_outsideTable_of_dispatchHolds hd)
  | motorOn =>
    rw [show (s.sched.get .motorOn).callback = _ from h.requests.motorOn ha]
    trivial
  | motorOff =>
    rw [show (s.sched.get .motorOff).callback = _ from h.requests.motorOff ha]
    trivial
  | read =>
    rw [show (s.sched.get .read).callback = _ from h.requests.read ha]
    exact cassetteReadCallback_stopsOnly (s := expire .read s) h.cassette.byteCursor

/-- The input `Fire` is refused with no request due (R141). -/
theorem fire_input_stopsOnly (h : Inv s) : StopsOnly (·.ofInput = true) (fire s) := by
  cases hq : nextDue s with
  | none =>
    rw [fire, hq]
    exact rfl
  | some q => exact (fire_stopsOnly h hq).mono fun r hr => hr ▸ rfl

theorem advance_stopsOnly (d : Nat) (s : State) : StopsOnly (·.ofInput = true) (advance d s) := by
  unfold advance
  split_ifs
  · exact rfl
  · exact rfl
  · trivial

/-- The earlier of two requests is there, and aims no later than either. -/
theorem earlier_some (best : Option RequestId) (p : RequestId) :
    ∃ r, earlier s best p = some r ∧ (s.sched.get r).trigger ≤ (s.sched.get p).trigger ∧
      ∀ b, best = some b → (s.sched.get r).trigger ≤ (s.sched.get b).trigger := by
  unfold earlier
  cases best with
  | none => exact ⟨p, rfl, le_refl _, nofun⟩
  | some b =>
    dsimp only
    split
    · rename_i hf
      simp only [firesBefore, Bool.or_eq_true, Bool.and_eq_true, decide_eq_true_eq, beq_iff_eq] at hf
      exact ⟨p, rfl, le_refl _, by rintro _ ⟨⟩; omega⟩
    · rename_i hf
      simp only [firesBefore, Bool.or_eq_true, Bool.and_eq_true, decide_eq_true_eq, beq_iff_eq] at hf
      exact ⟨b, rfl, by omega, by rintro _ ⟨⟩; exact le_refl _⟩

/-- The earliest of a list of requests is there unless none is given, and aims no later than any of them. -/
theorem foldl_earlier_le (qs : List RequestId) (best : Option RequestId) :
    (qs.foldl (earlier s) best = none ∧ best = none ∧ qs = []) ∨
      ∃ r, qs.foldl (earlier s) best = some r ∧
        (∀ b, best = some b → (s.sched.get r).trigger ≤ (s.sched.get b).trigger) ∧
        ∀ p ∈ qs, (s.sched.get r).trigger ≤ (s.sched.get p).trigger := by
  induction qs generalizing best with
  | nil =>
    cases best with
    | none => exact .inl ⟨rfl, rfl, rfl⟩
    | some b => exact .inr ⟨b, rfl, by rintro _ ⟨⟩; exact le_refl _, nofun⟩
  | cons p rest ih =>
    obtain ⟨e, he, hp, hbest⟩ := earlier_some (s := s) best p
    rw [List.foldl_cons, he]
    obtain ⟨-, hnone, -⟩ | ⟨r, hr, hre, hrest⟩ := ih (some e)
    · cases hnone
    · have hre := hre e rfl
      refine .inr ⟨r, hr, fun b hb => hre.trans (hbest b hb), fun k hk => ?_⟩
      obtain rfl | hk := List.mem_cons.mp hk
      · exact hre.trans hp
      · exact hrest k hk

theorem mem_allRequests (q : RequestId) : q ∈ allRequests := by
  cases q <;> decide

/-- With no request due every active one aims past the tick (R140). -/
theorem trigger_of_none_due (h : nextDue s = none) {q : RequestId} (ha : (s.sched.get q).active = true) :
    s.tickCount < (s.sched.get q).trigger := by
  obtain ⟨-, -, hempty⟩ | ⟨r, hr, -⟩ := foldl_earlier_le (s := s) (allRequests.filter (due s)) none
  · have hq := List.filter_eq_nil_iff.mp hempty q (mem_allRequests q)
    simpa [due, ha] using hq
  · cases h.symm.trans hr

/-- With no request due the clock may run to the earliest trigger, or one tick with no request active (R131, R142). -/
theorem idleTicks_enabled (h : nextDue s = none) : advanceEnabled s (idleTicks s) = true := by
  rw [advanceEnabled_iff, idleTicks]
  obtain ⟨hnone, -, hempty⟩ | ⟨r, hr, -, hmin⟩ :=
    foldl_earlier_le (s := s) (allRequests.filter fun q => (s.sched.get q).active) none
  · rw [show nextActive s = none from hnone]
    exact ⟨le_refl 1, fun q ha => absurd ha (List.filter_eq_nil_iff.mp hempty q (mem_allRequests q))⟩
  · have hr : nextActive s = some r := hr
    have hra : (s.sched.get r).active = true :=
      (List.mem_filter.mp ((foldl_earlier_mem hr).resolve_left nofun)).2
    have hrt := trigger_of_none_due h hra
    rw [hr]
    refine ⟨by dsimp only; omega, fun q ha => ⟨trigger_of_none_due h ha, ?_⟩⟩
    have hrq := hmin q (List.mem_filter.mpr ⟨mem_allRequests q, ha⟩)
    dsimp only
    omega

/-- Left alone the block fires what is due, or lets the clock run until it is at its end (assumption log 3). -/
theorem idle_stopsOnly (h : Inv s) : StopsOnly (fun r => r = .tickOverflow ∨ r = .oddTrackLength) (idle s) := by
  unfold idle
  split
  · rename_i q hq
    exact (fire_stopsOnly h hq).mono fun _ => .inr
  · rename_i hq
    rw [advance, idleTicks_enabled hq, if_neg (by decide)]
    split
    · exact .inl rfl
    · trivial

/-! ## The step -/

theorem perform_stopsOnly (h : Inv s) (i : Input) : StopsOnly (·.ofInput = true) (perform i s) := by
  have hcur := h.cassette.byteCursor
  cases i with
  | portOut p v => exact portOut_stopsOnly h p v
  | portIn p => exact portIn_stopsOnly p s
  | fire => exact fire_input_stopsOnly h
  | advance d => exact advance_stopsOnly d s
  | setMotorSignal b => exact updateMotor_stopsOnly (s := { s with cas.motorOnSignal := b }) hcur
  | play => exact play_stopsOnly hcur
  | record => exact record_stopsOnly hcur
  | rewind => exact rewind_stopsOnly s
  | insertTape bytes => exact insertTape_stopsOnly bytes s
  | mediaChange d f wp =>
    rw [perform, mediaChange]
    split
    · trivial
    · exact rfl
  | stop | unlatch | platformReset => trivial

/-- A step with no input waiting is what the block does by itself. -/
theorem step_of_no_input (h : s.inputs = []) : step s = idle (beginStep [] s) := by
  rw [step, runStep, h]

theorem step_stopsOnly (h : Inv s) : StopsOnly (·.ofInput = true) (step s) := by
  cases hin : s.inputs with
  | nil =>
    rw [step_of_no_input hin]
    refine (idle_stopsOnly (h.beginStep [])).mono fun r hr => ?_
    obtain rfl | rfl := hr <;> rfl
  | cons i rest =>
    rw [step_of_input hin]
    exact perform_stopsOnly (h.beginStep rest) i

end

/-- Settles O56: an input performed stops only by a refusal of its own, and the block by itself only at the clock's end and
over a track of odd length. -/
theorem onlyInputsAreRefused : Obligations.OnlyInputsAreRefused := by
  intro s h
  refine ⟨fun f hf => ?_, fun r hr => ?_, fun hin r hr => ?_⟩
  · have hs := step_stopsOnly h
    rw [hf] at hs
    exact hs
  · have hs := step_stopsOnly h
    rw [hr] at hs
    exact hs
  · have hs := idle_stopsOnly (h.beginStep [])
    rw [← step_of_no_input hin, hr] at hs
    exact hs

end Sys2Proof.Machine
end

section
/-! SUPPORT. The command map is a bijection: what encodes to a byte is what the byte decodes to, and every byte is an
encoding (30_encoding.md R90 to R98). -/

namespace Sys2Proof

/-- The row of an instruction is the first that its byte matches, and the row's open bits are its fields (R91 to R97). -/
theorem decodeByte_encodeByte (i : Instr) : decodeByte (encodeByte i) = some i := by
  cases i with
  | reset | forceintD1 | forceintimm | forceintD9 => rfl
  | forceintD2 x | forceintD4 x | forceintDA x | forceintDC x => revert x; decide
  | restore h v r | seek h v r => revert h v r; decide
  | step u h v r | stepIn u h v r | stepOut u h v r => revert u h v r; decide
  | rdsec m sd e c x | wrsec m sd e c x => revert m sd e c x; decide
  | rdaddr x3 e x10 | rdtrk x3 e x10 | wrtrk x3 e x10 => revert x3 e x10; decide

/-- No two instructions share a byte (R96). -/
theorem encodeByte_injective : Function.Injective encodeByte := fun i j h =>
  Option.some.inj ((decodeByte_encodeByte i).symm.trans (h ▸ decodeByte_encodeByte j))

/-- The rows cover all 256 bytes, and no bit of the byte is lost in the fields (R96, R97). -/
theorem encodeByte_decodeByte : ∀ b : Byte, (decodeByte b).map encodeByte = some b := by decide

theorem encodeByte_surjective : Function.Surjective encodeByte := fun b => by
  obtain ⟨i, -, hi⟩ := Option.map_eq_some_iff.mp (encodeByte_decodeByte b)
  exact ⟨i, hi⟩

/-- Settles O1: the one byte of an instruction decodes to it, and what follows is left alone. -/
theorem decodeEncodeAgree : Obligations.DecodeEncodeAgree := by
  intro i rest _
  rw [encode, List.singleton_append, decode, decodeByte_encodeByte]

theorem decode_encode (i : Instr) : decode (encode i) = .ok (i, []) := decodeEncodeAgree i [] rfl

theorem encode_eq_singleton {i : Instr} {b : Byte} : encode i = [b] ↔ encodeByte i = b := List.singleton_inj

/-- Settles O2: the byte is some instruction's by surjectivity, no other's by injectivity, and decodes to it. -/
theorem everyByteIsOneCommand : Obligations.EveryByteIsOneCommand := by
  intro b
  obtain ⟨i, rfl⟩ := encodeByte_surjective b
  exact ⟨i, decode_encode i, rfl, fun j hj => encodeByte_injective (encode_eq_singleton.mp hj)⟩

/-- Settles O3: each of the bytes is the encoding of the instruction it stands for. -/
theorem sampleBytesDecode : Obligations.SampleBytesDecode :=
  ⟨decode_encode (.restore false false 3#2), decode_encode (.restore false true 3#2),
    decode_encode (.seek false false 1#2), decode_encode (.step false false false 0#2),
    decode_encode (.stepIn true false false 2#2), decode_encode (.stepOut true false false 0#2),
    decode_encode (.rdsec false false false false false), decode_encode (.wrsec false false false false true),
    decode_encode (.rdaddr false true 0#2), decode_encode .reset, decode_encode .forceintimm,
    decode_encode (.forceintD4 1#2), decode_encode (.rdtrk false false 0#2), decode_encode (.wrtrk false true 0#2)⟩

end Sys2Proof
end

section
/-! SUPPORT. The Type I step: one pass of state `Step` is what R285 promises of it, and the byte of a Step command gives its
direction and its rate (43_fdc_type1.md R283 to R288, R294 to R296). -/

namespace Sys2Proof.Machine

section

variable {s t : State} {up : Bool}

/-! ## The selected drive and the promises about its head -/

section

variable {d : DriveId} (hd : s.fdc.currentDrive = some d)

include hd

theorem curDrive_of_selected : curDrive s = some (s.drives.get d) := by
  rw [curDrive, hd, Option.map_some]

theorem mapCurDrive_of_selected (f : DriveState → DriveState) :
    mapCurDrive f s = { s with drives := s.drives.set d (f (s.drives.get d)) } := by
  unfold mapCurDrive
  rw [hd]

theorem headMoves_of_selected :
    Claims.headMoves up s = true ↔
      if up = true then (s.drives.get d).physicalTrack < 80 else 0 < (s.drives.get d).physicalTrack := by
  unfold Claims.headMoves
  rw [hd]
  cases up <;> simp

theorem endsOnTrackZero_of_selected :
    Claims.endsOnTrackZero up s = (!up && decide ((s.drives.get d).physicalTrack ≤ 1)) := by
  unfold Claims.endsOnTrackZero
  rw [hd]

theorem steppedDrives_of_selected :
    Claims.steppedDrives up s = s.drives.set d { s.drives.get d with
      physicalTrack :=
        if up = true then
          if (s.drives.get d).physicalTrack < 80 then (s.drives.get d).physicalTrack + 1
          else (s.drives.get d).physicalTrack
        else (s.drives.get d).physicalTrack - 1 } := by
  unfold Claims.steppedDrives
  rw [hd]

end

/-- A head that cannot move leaves the drives as they are. -/
theorem steppedDrives_of_still (h : ¬ Claims.headMoves up s = true) : Claims.steppedDrives up s = s.drives := by
  cases hd : s.fdc.currentDrive with
  | none => unfold Claims.steppedDrives; rw [hd]
  | some d =>
    rw [headMoves_of_selected hd] at h
    rw [steppedDrives_of_selected hd]
    cases up with
    | true =>
      rw [if_pos rfl] at h ⊢
      rw [if_neg h]
      exact Drives.set_get _ d
    | false =>
      rw [if_neg (by decide)] at h ⊢
      rw [show (s.drives.get d).physicalTrack - 1 = (s.drives.get d).physicalTrack by omega]
      exact Drives.set_get _ d

/-! ## The head (R287, R288) -/

theorem stepUp_of_moves (h : Claims.headMoves true s = true) :
    stepUp s = emit .trackStep { s with drives := Claims.steppedDrives true s } := by
  cases hd : s.fdc.currentDrive with
  | none => simp [Claims.headMoves, hd] at h
  | some d =>
    rw [headMoves_of_selected hd, if_pos rfl] at h
    rw [stepUp, curDrive_of_selected hd, mapCurDrive_of_selected hd, steppedDrives_of_selected hd, if_pos rfl, if_pos h]
    exact if_pos h

/-- The counter is cleared on arriving at track 0. -/
theorem stepDown_of_moves (h : Claims.headMoves false s = true) :
    stepDown s = emit .trackStep { s with
      drives := Claims.steppedDrives false s
      fdc.trackRegister := if Claims.endsOnTrackZero false s = true then 0x00#8 else s.fdc.trackRegister } := by
  cases hd : s.fdc.currentDrive with
  | none => simp [Claims.headMoves, hd] at h
  | some d =>
    rw [headMoves_of_selected hd, if_neg (by decide)] at h
    have h1 : (s.drives.get d).physicalTrack = 1 ↔ (s.drives.get d).physicalTrack ≤ 1 := by omega
    rw [stepDown, curDrive_of_selected hd, mapCurDrive_of_selected hd, steppedDrives_of_selected hd,
      endsOnTrackZero_of_selected hd]
    simp only [h, h1, if_true, Bool.not_false, Bool.true_and, decide_eq_true_eq, Bool.false_eq_true, if_false]

/-- A head that cannot move leaves everything as it is. -/
theorem stepHead_of_still (hup : s.fdc.lastStepDirUp = up) (h : ¬ Claims.headMoves up s = true) : stepHead s = s := by
  rw [stepHead, hup]
  cases hd : s.fdc.currentDrive with
  | none => simp [stepUp, stepDown, curDrive, hd]
  | some d =>
    rw [headMoves_of_selected hd] at h
    cases up with
    | true =>
      rw [if_pos rfl] at h ⊢
      rw [stepUp, curDrive_of_selected hd]
      exact if_neg h
    | false =>
      rw [if_neg (by decide)] at h ⊢
      rw [stepDown, curDrive_of_selected hd]
      exact if_neg h

theorem endsOnTrackZero_up (s : State) : Claims.endsOnTrackZero true s = false := by
  unfold Claims.endsOnTrackZero
  cases s.fdc.currentDrive <;> rfl

/-- One step of the head in the direction `up`, moved or not. -/
theorem stepHead_eq (hup : s.fdc.lastStepDirUp = up) :
    stepHead s = { s with
      drives := Claims.steppedDrives up s
      outputs := s.outputs ++ if Claims.headMoves up s = true then [.trackStep] else []
      fdc.trackRegister :=
        if (Claims.headMoves up s && Claims.endsOnTrackZero up s) = true then 0x00#8 else s.fdc.trackRegister } := by
  by_cases hm : Claims.headMoves up s = true
  · rw [if_pos hm, hm, Bool.true_and]
    cases up with
    | true =>
      have hs : stepHead s = stepUp s := if_pos hup
      rw [hs, stepUp_of_moves hm, endsOnTrackZero_up]
      rfl
    | false =>
      have hs : stepHead s = stepDown s := if_neg (by rw [hup]; decide)
      rw [hs, stepDown_of_moves hm]
      rfl
  · rw [stepHead_of_still hup hm, steppedDrives_of_still hm, if_neg hm, Bool.eq_false_of_not_eq_true hm, List.append_nil]
    rfl

/-- The track-zero test after a step is the promise made before it (R285). -/
theorem onTrackZero_of_stepped (hd : t.fdc.currentDrive = s.fdc.currentDrive) (h : t.drives = Claims.steppedDrives up s) :
    (onTrackZero t && !up) = Claims.endsOnTrackZero up s := by
  cases hs : s.fdc.currentDrive with
  | none => simp [onTrackZero, curDrive, hd, hs, Claims.endsOnTrackZero]
  | some d =>
    rw [onTrackZero, curDrive_of_selected (hd.trans hs), h, steppedDrives_of_selected hs, endsOnTrackZero_of_selected hs,
      Drives.get_set_same, Bool.and_comm]
    cases up with
    | true => rfl
    | false =>
      rw [Bool.not_false, Bool.true_and, Bool.true_and, if_neg (by decide)]
      exact (beq_eq_decide _ _).trans (decide_eq_decide.mpr Nat.sub_eq_zero_iff_le)

/-! ## A pass of state `Step` (R285) -/

theorem countStep_eq (s : State) :
    countStep s = { s with fdc.trackRegister :=
      if s.fdc.updateRegisters = true then
        if s.fdc.lastStepDirUp = true then s.fdc.trackRegister + 1#8 else s.fdc.trackRegister - 1#8
      else s.fdc.trackRegister } := by
  unfold countStep
  split <;> rfl

/-- A pass ends in one step-rate delay; track 0 while stepping down clears the counter. -/
theorem endStepPass_eq {z : Bool} (hz : (onTrackZero s && !s.fdc.lastStepDirUp) = z) :
    endStepPass s = Claims.timeWait (stepRate s) (if (z || s.fdc.command == .step) = true then .checkVerify else .step)
      { s.fdc with trackRegister := if z = true then 0x00#8 else s.fdc.trackRegister } s := by
  rw [endStepPass, hz]
  cases z with
  | true => rfl
  | false =>
    by_cases hc : s.fdc.command = .step
    · rw [if_neg (by decide), if_pos hc, if_pos (by simp [hc])]; rfl
    · rw [if_neg (by decide), if_neg hc, if_neg (by simpa using hc)]; rfl

/-- The head moved and the pass ended: the counter is kept but for track 0, where the head arrives or stands already. -/
theorem endStepPass_stepHead (hup : s.fdc.lastStepDirUp = up) :
    endStepPass (stepHead s) = {
      Claims.timeWait (stepRate s)
        (if (Claims.endsOnTrackZero up s || s.fdc.command == .step) = true then .checkVerify else .step)
        { s.fdc with trackRegister := if Claims.endsOnTrackZero up s = true then 0x00#8 else s.fdc.trackRegister } s with
      drives := Claims.steppedDrives up s
      outputs := s.outputs ++ if Claims.headMoves up s = true then [.trackStep] else [] } := by
  have hz : (onTrackZero (stepHead s) && !(stepHead s).fdc.lastStepDirUp) = Claims.endsOnTrackZero up s := by
    rw [stepHead_eq hup]
    dsimp only
    rw [hup]
    exact onTrackZero_of_stepped rfl rfl
  rw [endStepPass_eq hz, stepHead_eq hup]
  cases Claims.endsOnTrackZero up s with
  | true => rfl
  | false => rw [Bool.and_false]; rfl

/-- One pass of state `Step` is the promised one. -/
theorem stepPass_eq_stepPassed (s : State) : stepPass s = Claims.stepPassed (stepRate s) s.fdc s := by
  rw [stepPass, endStepPass_stepHead rfl, countStep_eq]
  rfl

/-- A command that steps towards no target makes its pass at once. -/
theorem typeIStep_of_not_seeks (h : s.fdc.command.seeks = false) : typeIStep s = stepPass s := by
  rw [typeIStep, if_neg (by rw [h]; decide)]

/-! ## The start of a command (42_fdc_ports_dispatch.md R240) -/

theorem startCommand_of_ready (v : Byte) (c : Command) (h : Claims.Ready s) :
    startCommand v c s = fdcAdvance (acceptCommand v c s) := by
  simp [startCommand, h.1, h.2]

/-- The byte of a Step command starts it, and its one pass runs in the write. -/
theorem startCommand_step (v : Byte) (h : Claims.Ready s) :
    startCommand v .step s = .next (Claims.stepPassed (stepRateUs (rateField v))
      { Claims.started v .step s.fdc with
        verify := verifyField v, updateRegisters := updateField v, lastStepDirUp := stepDirection v s.fdc.lastStepDirUp }
      (Claims.acknowledged s)) := by
  rw [startCommand_of_ready v .step h, fdcAdvance_step_prepare rfl rfl, typeIPrepare, typeIStep_of_not_seeks rfl,
    stepPass_eq_stepPassed]
  rfl

end

/-! ## The fields of a Step byte (30_encoding.md R91, R92) -/

/-- The low five bits of a Step command are `u h V r r`, whatever the three above them. -/
theorem stepByte_fields (c : BitVec 3) (u h v : Bool) (r : BitVec 2) :
    let b : Byte := c ++ BitVec.ofBool u ++ BitVec.ofBool h ++ BitVec.ofBool v ++ r
    updateField b = u ∧ verifyField b = v ∧ rateField b = r ∧ subCommandField b = c.extractLsb' 0 2 := by
  revert c u h v r
  decide

/-- The step rates of R6 are those the statements write out. -/
theorem stepRateUs_eq_stepUs (r : BitVec 2) : stepRateUs r = Claims.stepUs r := by
  revert r
  decide

/-- A Step command with the sub-command `c`: its fields taken from the byte (R283). -/
theorem startCommand_stepByte (c : BitVec 3) (u h v : Bool) (r : BitVec 2) {s : State} (hs : Claims.Ready s) :
    let b : Byte := c ++ BitVec.ofBool u ++ BitVec.ofBool h ++ BitVec.ofBool v ++ r
    startCommand b .step s = .next (Claims.stepPassed (Claims.stepUs r)
      { Claims.started b .step s.fdc with
        verify := v, updateRegisters := u
        lastStepDirUp :=
          if c.extractLsb' 0 2 = 0b10#2 then true else if c.extractLsb' 0 2 = 0b11#2 then false
          else s.fdc.lastStepDirUp }
      (Claims.acknowledged s)) := by
  intro b
  obtain ⟨hu, hv, hr, hc⟩ := stepByte_fields c u h v r
  rw [startCommand_step b hs, stepDirection, hu, hv, hr, hc, stepRateUs_eq_stepUs]

/-- Settles O8: each of the three commands is the write of a Step byte, with its own sub-command. -/
theorem stepCommandsStepOnce : Obligations.StepCommandsStepOnce := fun u h v r _ hs =>
  ⟨startCommand_stepByte 0b001#3 u h v r hs, startCommand_stepByte 0b010#3 u h v r hs,
    startCommand_stepByte 0b011#3 u h v r hs⟩

end Sys2Proof.Machine
end

section
/-! SUPPORT. The sixth header byte of a sector command: the byte wait and the header read by what the rules promise of them,
and the comparison that decides (42_fdc_ports_dispatch.md R261, 44_fdc_type2.md R315 to R318). -/

namespace Sys2Proof.Machine

section

variable {s : State} {f : Fdc}

/-! ## The byte wait and the byte under the head, as the rules promise them (R67, R152) -/

/-- Registers that select no other drive, side or density leave the head where it is. -/
theorem trackLen_withFdc (hd : f.currentDrive = s.fdc.currentDrive) (hs : f.sideOneSelected = s.fdc.sideOneSelected)
    (hdd : f.doubleDensity = s.fdc.doubleDensity) : trackLen { s with fdc := f } = trackLen s := by
  simp only [trackLen, boundTrack, curDrive, hd, hs, hdd]

/-- With the registers `f`, which select no other drive, side or density, a byte wait is the promised one. -/
theorem waitBytes_withFdc (n : Nat) (st : OpStatus) (h : Claims.HeadOk s)
    (hd : f.currentDrive = s.fdc.currentDrive := by rfl) (hs : f.sideOneSelected = s.fdc.sideOneSelected := by rfl)
    (hdd : f.doubleDensity = s.fdc.doubleDensity := by rfl) :
    waitBytes n st { s with fdc := f } = .next (Claims.byteWait n st f s) := by
  have hlen : trackLen { s with fdc := f } = trackLen s := trackLen_withFdc hd hs hdd
  have hok : Claims.HeadOk { s with fdc := f } := by rwa [Claims.HeadOk, hlen, hdd]
  have hidx : trackDataIndex { s with fdc := f } = trackDataIndex s := by rw [trackDataIndex, hlen]; rfl
  have htarget : byteWaitTarget n { s with fdc := f } = byteWaitTarget n s := by
    rw [byteWaitTarget, hidx, hlen, hdd]; rfl
  have hdelay (k : Nat) : byteWaitDelay k { s with fdc := f } = byteWaitDelay k s := by
    rw [byteWaitDelay, cellAngle, hlen]; rfl
  rw [waitBytes_of_headOk n st hok, armByteWait, htarget, hdelay]
  rfl

theorem afterTrackRead_eq_counted (s : State) : afterTrackRead s = Claims.counted s := by
  unfold afterTrackRead Claims.counted
  cases boundTrack s <;> rfl

theorem trackByte_eq_headByte (s : State) : trackByte s (trackDataIndex s) = Claims.headByte s := by
  unfold trackByte Claims.headByte
  cases boundTrack s <;> rfl

/-- A media read moves no head. -/
theorem headOk_counted (h : Claims.HeadOk s) : Claims.HeadOk (Claims.counted s) := h

/-! ## The header read (R261) -/

theorem readingAddressData_of_headOk (complete : State → Host.Outcome State Fault Refusal) (h : Claims.HeadOk s) :
    readingAddressData complete s = headerByte (Claims.headByte s) complete (Claims.counted s) := by
  obtain ⟨hlen, heven⟩ := h
  rw [readingAddressData,
    withHead_stops (trackDataIndex_lt hlen) ((Bool.eq_false_or_eq_true s.fdc.doubleDensity).imp_right heven),
    afterTrackRead_eq_counted, trackByte_eq_headByte]

/-- The sixth byte completes the header, and the command's own rule goes on. -/
theorem headerByte_sixth (b : Byte) (complete : State → Host.Outcome State Fault Refusal)
    (h : s.fdc.readAddressIndex = 5) :
    headerByte b complete s = complete { s with fdc := Claims.headerComplete b s.fdc } := by
  rw [headerByte, h, if_pos rfl, captureHeaderCrc, storeHeaderByte, h]
  rfl

/-! ## The decision (R315, R316, R318) -/

theorem headerMatches_iff (s : State) :
    headerMatches s = true ↔
      s.fdc.readAddressData.track = s.fdc.trackRegister ∧ s.fdc.readAddressData.sector = s.fdc.sectorRegister ∧
        (s.fdc.sideSelectVerify = true →
          (s.fdc.readAddressData.side ≠ 0x00#8 ↔ s.fdc.sideOneExpected = true)) := by
  unfold headerMatches
  cases s.fdc.sideSelectVerify <;> cases s.fdc.sideOneExpected <;> simp [and_assoc]

theorem crcMatches_iff (s : State) : crcMatches s = true ↔ s.fdc.crcHigh ++ s.fdc.crcLow = s.fdc.crcCalc := by
  rw [crcMatches, word16, beq_iff_eq]

/-- The length by the size code's two low bits (30_encoding.md R111). -/
theorem sectorLengthOf_eq (size : Byte) : sectorLengthOf size = 128 * 2 ^ (size.toNat % 4) := by
  rw [sectorLengthOf, Nat.shiftLeft_eq, BitVec.extractLsb'_toNat, Nat.shiftRight_zero]

theorem typeIIHeader_skips (hm : ¬ headerMatches s = true) : typeIIHeader s = waitBytes 1 .seekingIDAM s := by
  simp [typeIIHeader, hm]

theorem typeIIHeader_badCrc (hm : headerMatches s = true) (hc : ¬ crcMatches s = true) :
    typeIIHeader s = .next (terminate { s with fdc.crcError := true }) := by
  simp [typeIIHeader, hm, hc]

theorem typeIIHeader_transfers (hm : headerMatches s = true) (hc : crcMatches s = true) :
    typeIIHeader s = beginTransfer s := by
  simp [typeIIHeader, hm, hc]

theorem beginTransfer_read (h : s.fdc.command = .readSector) :
    beginTransfer s = waitBytes 1 .seekingDAM { s with
      fdc.sectorLength := 128 * 2 ^ (s.fdc.readAddressData.size.toNat % 4), fdc.damBytesChecked := 0 } := by
  rw [beginTransfer, if_pos h, sectorLengthOf_eq]

theorem beginTransfer_write (h : s.fdc.command = .writeSector) :
    beginTransfer s = waitBytes 8 .drqCheck { s with
      fdc.sectorLength := 128 * 2 ^ (s.fdc.readAddressData.size.toNat % 4), fdc.drq := true } := by
  rw [beginTransfer, if_neg (by rw [h]; decide), sectorLengthOf_eq]

/-- State `ReadingAddressData` of a sector command (R241). -/
theorem fdcAdvance_typeII_readingAddressData (hc : s.fdc.command = .readSector ∨ s.fdc.command = .writeSector)
    (ho : s.fdc.opStatus = .readingAddressData) : fdcAdvance s = readingAddressData typeIIHeader s :=
  hc.elim (fdcAdvance_readSector_readingAddressData · ho) (fdcAdvance_writeSector_readingAddressData · ho)

end

/-- Settles O21: the sixth byte completes the header, and its comparison with the registers and the CRC decides. -/
theorem typeTwoHeaderDecides : Obligations.TypeTwoHeaderDecides := by
  intro s hcmd hop hok hidx a f wanted
  let u : State := { Claims.counted s with fdc := f }
  have hrun : fdcAdvance s = typeIIHeader u := by
    rw [fdcAdvance_typeII_readingAddressData hcmd hop, readingAddressData_of_headOk _ hok]
    exact headerByte_sixth _ _ hidx
  have hmatch : headerMatches u = true ↔ wanted := headerMatches_iff _
  have hcrc : crcMatches u = true ↔ a.crcHi ++ Claims.headByte s = s.fdc.crcCalc :=
    crcMatches_iff _
  rw [hrun]
  refine ⟨fun hw => ?_, fun hw hc => ?_, fun hw hc hr => ?_, fun hw hc hr => ?_⟩
  · rw [typeIIHeader_skips (mt hmatch.mp hw)]
    exact waitBytes_withFdc 1 .seekingIDAM (headOk_counted hok)
  · rw [typeIIHeader_badCrc (hmatch.mpr hw) (mt hcrc.mp hc)]
    rfl
  · rw [typeIIHeader_transfers (hmatch.mpr hw) (hcrc.mpr hc), beginTransfer_read (s := u) hr]
    exact waitBytes_withFdc 1 .seekingDAM (headOk_counted hok)
  · rw [typeIIHeader_transfers (hmatch.mpr hw) (hcrc.mpr hc), beginTransfer_write (s := u) hr]
    exact waitBytes_withFdc 8 .drqCheck (headOk_counted hok)

end Sys2Proof.Machine
end

section
/-! SUPPORT. The write of port 0xF4: the drive bound, the CPU wait asked for, and the motor timers (30_encoding.md R106,
42_fdc_ports_dispatch.md R245). -/

namespace Sys2Proof.Machine

/-- An event emitted under a condition: the outputs alone grow. -/
theorem emit_if (b : Bool) (e : Output) (s : State) :
    (if b = true then emit e s else s) = { s with outputs := s.outputs ++ if b = true then [e] else [] } := by
  cases b
  · simp
  · rfl

/-- The motor timers at a drive select: a running motor's time is restarted, else its start is asked for once. -/
theorem selectMotor_eq (s : State) :
    selectMotor s = { s with
      sched :=
        if s.fdc.motorOn = true then
          (register .motorOff .microseconds 2000000 .motorOffCallback s).sched
        else if s.sched.motorOn.active = true then s.sched
        else (register .motorOn .microseconds 10 .motorOnCallback s).sched } := by
  unfold selectMotor
  split
  · rfl
  · split <;> rfl

/-- Settles O43: an enabled FDC takes the byte, binds the drive by its bits and runs the timers. -/
theorem driveSelectBinds : Obligations.DriveSelectBinds := by
  intro s v he
  rw [portOut_select, fdcWrite_enabled _ he, selectDrive, emit_if, selectMotor_eq]
  rfl

end Sys2Proof.Machine
end

section
/-! SUPPORT. The scheduler and the clock: which request `Fire` takes, what a registration and an expiry replace, what the
callbacks do, and which step moves the clock (40_clock_scheduler.md R131 to R142, R153). -/

namespace Sys2Proof.Machine

section

variable {s t : State}

/-! ## Requests by name -/

@[simp] theorem Scheduler.set_get (c : Scheduler) (q : RequestId) : c.set q (c.get q) = c := by cases q <;> rfl

@[simp] theorem Scheduler.set_set (c : Scheduler) (q : RequestId) (r r' : PulseReq) : (c.set q r).set q r' = c.set q r' := by
  cases q <;> rfl

theorem delayTicks_eq (p : Config.Params) (b : Basis) (n : Nat) :
    delayTicks p b n = if b = .ticks then n else n * p.tps / 1000000 := by
  cases b <;> rfl

/-- A registration overwrites the whole request, whatever an expiry left of it (R136). -/
theorem register_expire (q : RequestId) (b : Basis) (n : Nat) (cb : Callback) (s : State) :
    register q b n cb (expire q s) = register q b n cb s := by
  simp [register, expire]

theorem expire_inactive {q : RequestId} (h : (s.sched.get q).active = false) : expire q s = s := by
  rw [expire, ← h, Scheduler.set_get]

/-! ## The order of delivery (R141) -/

theorem firesBefore_iff (a b : PulseReq) :
    firesBefore a b = true ↔ a.trigger < b.trigger ∨ (a.trigger = b.trigger ∧ a.seq < b.seq) := by
  simp [firesBefore]

theorem firesBefore_asymm {a b : PulseReq} (h : firesBefore a b = true) : ¬ firesBefore b a = true := by
  rw [firesBefore_iff] at h ⊢
  omega

theorem due_iff (s : State) (q : RequestId) :
    due s q = true ↔ (s.sched.get q).active = true ∧ (s.sched.get q).trigger ≤ s.tickCount := by
  simp [due]

/-- Of the best so far and one more, the one that fires before the other is the earlier. -/
theorem earlier_of_first {best : Option RequestId} {p q : RequestId} (hq : q = p ∨ best = some q)
    (hfirst : ∀ r, r ≠ q → r = p ∨ best = some r → firesBefore (s.sched.get q) (s.sched.get r) = true) :
    earlier s best p = some q := by
  obtain rfl | rfl := hq
  · cases best with
    | none => rfl
    | some b =>
      obtain rfl | hb := eq_or_ne b q
      · exact ite_self _
      · exact if_pos (hfirst b hb (.inr rfl))
  · obtain rfl | hp := eq_or_ne p q
    · exact ite_self _
    · exact if_neg (firesBefore_asymm (hfirst p hp (.inl rfl)))

theorem mem_of_earlier {best : Option RequestId} {p r : RequestId} (h : earlier s best p = some r) :
    r = p ∨ best = some r :=
  (foldl_earlier_mem (qs := [p]) h).symm.imp_left List.mem_singleton.mp

/-- The request that fires before every other of a list is the earliest of the list. -/
theorem foldl_earlier_first {qs : List RequestId} {best : Option RequestId} {q : RequestId}
    (hq : q ∈ qs ∨ best = some q)
    (hfirst : ∀ r, r ≠ q → r ∈ qs ∨ best = some r → firesBefore (s.sched.get q) (s.sched.get r) = true) :
    qs.foldl (earlier s) best = some q := by
  induction qs generalizing best with
  | nil => exact hq.resolve_left nofun
  | cons p rest ih =>
    have hhead (h : q = p ∨ best = some q) : earlier s best p = some q :=
      earlier_of_first h fun r hr hm => hfirst r hr (hm.imp_left (List.mem_cons.mpr <| .inl ·))
    rw [List.foldl_cons]
    refine ih ?_ fun r hr hm => hfirst r hr ?_
    · rw [List.mem_cons] at hq
      obtain (hp | hrest) | hbest := hq
      · exact .inr (hhead (.inl hp))
      · exact .inl hrest
      · exact .inr (hhead (.inr hbest))
    · rw [List.mem_cons]
      obtain hrest | he := hm
      · exact .inl (.inr hrest)
      · exact (mem_of_earlier he).imp_left .inl

/-- A due request that fires before every other due one is the one taken. -/
theorem nextDue_of_first {q : RequestId} (hq : due s q = true)
    (hfirst : ∀ p, p ≠ q → due s p = true → firesBefore (s.sched.get q) (s.sched.get p) = true) :
    nextDue s = some q :=
  foldl_earlier_first (.inl (List.mem_filter.mpr ⟨mem_allRequests q, hq⟩)) fun p hp hm =>
    hfirst p hp (List.mem_filter.mp (hm.resolve_right nofun)).2

theorem nextDue_of_none_due (h : ∀ q, ¬ due s q = true) : nextDue s = none := by
  rw [nextDue, List.filter_eq_nil_iff.mpr fun q _ => h q]
  rfl

theorem fire_of_nextDue {q : RequestId} (h : nextDue s = some q) :
    fire s = runCallback (s.sched.get q).callback (expire q s) := by
  rw [fire, h]

theorem fire_of_none_due (h : nextDue s = none) : fire s = .refused .fireNotEnabled := by
  rw [fire, h]

/-! ## What the choice reads -/

/-- The earliest of a list of requests reads no request outside the list. -/
theorem foldl_earlier_congr {qs : List RequestId} {best : Option RequestId}
    (h : ∀ p, p ∈ qs ∨ best = some p → t.sched.get p = s.sched.get p) :
    qs.foldl (earlier t) best = qs.foldl (earlier s) best := by
  induction qs generalizing best with
  | nil => rfl
  | cons p rest ih =>
    have he : earlier t best p = earlier s best p := by
      cases best with
      | none => rfl
      | some b => simp only [earlier, h p (.inl List.mem_cons_self), h b (.inr rfl)]
    rw [List.foldl_cons, List.foldl_cons, he]
    refine ih fun r hr => h r ?_
    rw [List.mem_cons]
    obtain hrest | he := hr
    · exact .inl (.inr hrest)
    · exact (mem_of_earlier he).imp_left .inl

/-- The request taken depends on the tick and the due requests alone. -/
theorem nextDue_congr (hdue : ∀ p, due t p = due s p) (hget : ∀ p, due s p = true → t.sched.get p = s.sched.get p) :
    nextDue t = nextDue s := by
  rw [nextDue, nextDue, funext hdue]
  exact foldl_earlier_congr fun p hp => hget p (List.mem_filter.mp (hp.resolve_right nofun)).2

/-- The fields of an inactive request do not enter into the choice. -/
theorem nextDue_set_inactive {q : RequestId} {r : PulseReq} (hq : (s.sched.get q).active = false) (hr : r.active = false) :
    nextDue { s with sched := s.sched.set q r } = nextDue s := by
  refine nextDue_congr (fun p => ?_) fun p hp => Scheduler.get_set_other _ _ ?_
  · obtain rfl | hp := eq_or_ne p q
    · simp [due, hq, hr]
    · simp [due, Scheduler.get_set_other _ _ hp]
  · rintro rfl
    exact Bool.false_ne_true (hq.symm.trans ((due_iff s p).mp hp).1)

/-! ## The note of a missed target (R447) -/

theorem noteSync_eq (s : State) :
    noteSync s = { s with
      outputs := s.outputs ++ (if trackDataIndex s = s.fdc.targetDataIndex then [] else [.syncFault]) } := by
  unfold noteSync
  split
  · simp
  · rfl

/-! ## The index count (R146, R147) -/

/-- After `ResetIndexCount` the count starts ten ticks into the revolution that runs. -/
theorem indexCheckStartTick_resetIndexCount (s : State) :
    (resetIndexCount s).fdc.indexCheckStartTick + s.tickCount % ticksPerRev s.params = s.tickCount + 10 := by
  have hr := Nat.mod_le s.tickCount (ticksPerRev s.params)
  simp only [resetIndexCount, Config.indexStartOffset]
  omega

/-- At least `k` indexes are found from `k` revolutions after the start of the count on. -/
theorem le_indexesFound_iff {k : Nat} (hrev : 0 < ticksPerRev s.params) (hk : 1 ≤ k) :
    k ≤ indexesFound s ↔ s.fdc.indexCheckStartTick + k * ticksPerRev s.params ≤ s.tickCount := by
  unfold indexesFound
  split
  · omega
  · rw [Nat.le_div_iff_mul_le hrev]
    omega

/-! ## What leaves the clock as it is -/

theorem GoesOn.tickCount (h : GoesOn s t) : t.tickCount = s.tickCount := by
  obtain ⟨u, st, w, -, ⟨us, rfl⟩ | ⟨n, rfl⟩⟩ := h
  · exact w.tickCount
  · exact w.tickCount

theorem fdcAdvance_tickCount (h : fdcAdvance s = .next t) : t.tickCount = s.tickCount := by
  obtain ⟨-, rfl⟩ | ⟨-, rfl⟩ | h := fdcAdvance_next h
  · rfl
  · rfl
  · exact h.tickCount

theorem runCallback_tickCount {cb : Callback} (h : runCallback cb s = .next t) : t.tickCount = s.tickCount := by
  cases cb with
  | fdcAdvance => exact fdcAdvance_tickCount h
  | poll =>
    rw [runCallback_poll, poll_eq] at h
    exact (fdcAdvance_tickCount h).trans ((noteSync_worked s).trans (stopPolling_worked _)).tickCount
  | motorOnCallback | motorOffCallback =>
    cases h
    rfl
  | cassetteReadCallback => exact (cassetteReadCallback_deckWorked h).tickCount

theorem fire_tickCount (h : fire s = .next t) : t.tickCount = s.tickCount := by
  obtain ⟨q, -, h⟩ := fire_next h
  exact (runCallback_tickCount h).trans (expire_tickCount s q)

theorem exec_tickCount {i : Instr} (h : exec i s = .next t) : t.tickCount = s.tickCount := by
  obtain rfl | ⟨-, v, c, h⟩ | ⟨v, c, rfl⟩ | ⟨v, c, rfl⟩ := exec_next h
  · rfl
  · exact (fdcAdvance_tickCount h).trans (acceptCommand_tickCount s v c)
  · rfl
  · rfl

theorem selectDrive_tickCount (v : Byte) (s : State) : (selectDrive v s).tickCount = s.tickCount := by
  rw [selectDrive, emit_if, selectMotor_eq]

theorem portOut_tickCount {p v : Byte} (h : portOut p v s = .next t) : t.tickCount = s.tickCount := by
  obtain rfl | ⟨i, h⟩ | rfl | rfl | rfl | rfl | rfl | h := portOut_next h
  · rfl
  · exact exec_tickCount h
  · rfl
  · rfl
  · rfl
  · exact selectDrive_tickCount v s
  · rfl
  · exact (cassetteWrite_deckWorked h).tickCount

/-- `Advance` alone moves the clock, and it moves it on; every other input but the platform reset leaves it (R132). -/
theorem perform_tickCount_le {i : Input} (hi : i ≠ .platformReset) (h : perform i s = .next t) :
    s.tickCount ≤ t.tickCount := by
  cases i with
  | portOut p v => exact (portOut_tickCount h).ge
  | portIn p => obtain ⟨e, u, rfl, rfl | rfl | rfl | rfl⟩ := portIn_next h <;> exact le_rfl
  | fire => exact (fire_tickCount h).ge
  | advance d => obtain ⟨rfl, -, -⟩ := advance_next h; exact Nat.le_add_right _ d
  | setMotorSignal b => exact (setMotorSignal_deckWorked h).tickCount.ge
  | play => exact (play_deckWorked h).tickCount.ge
  | record => exact (record_deckWorked h).tickCount.ge
  | stop => cases h; exact (stopTape_deckWorked s).tickCount.ge
  | rewind => exact (rewind_deckWorked h).tickCount.ge
  | insertTape bytes => exact (insertTape_deckWorked h).tickCount.ge
  | unlatch l => cases h; exact le_rfl
  | mediaChange d f wp => obtain ⟨-, rfl⟩ := mediaChange_next h; exact le_rfl
  | platformReset => exact absurd rfl hi

end

/-- Settles O34: a registration replaces the whole request, so an expiry before it leaves no trace. -/
theorem registerIsExpireThenRegister : Obligations.RegisterIsExpireThenRegister := by
  intro s q b n cb
  exact ⟨(register_expire q b n cb s).symm, by rw [register, delayTicks_eq]⟩

/-- Settles O44: the motor callbacks by their definitions, and `Poll` by the note it takes. -/
theorem callbacksRun : Obligations.CallbacksRun := by
  intro s
  refine ⟨rfl, rfl, runCallback_fdcAdvance s, ?_⟩
  rw [runCallback_poll, poll_eq, noteSync_eq]
  rfl

/-- Settles O32: the choice of the earliest among the due requests, and the refusal with none. -/
theorem fireTakesEarliest : Obligations.FireTakesEarliest := by
  refine ⟨fun s q ha ht hfirst => fire_of_nextDue (nextDue_of_first ((due_iff s q).mpr ⟨ha, ht⟩) fun p hp hd => ?_),
    fun s hnone => fire_of_none_due (nextDue_of_none_due fun q hd => ?_)⟩
  · obtain ⟨hpa, hpt⟩ := (due_iff s p).mp hd
    exact (firesBefore_iff _ _).mpr (hfirst p hp hpa hpt)
  · obtain ⟨hqa, hqt⟩ := (due_iff s q).mp hd
    exact Nat.not_lt.mpr hqt (hnone q hqa)

/-- Settles O33: an expiry rewrites one request, and the choice of the next request reads active ones alone. -/
theorem expiredRequestNeverFires : Obligations.ExpiredRequestNeverFires := by
  refine ⟨fun s q => ⟨rfl, expire_inactive⟩, fun s q hq r hr => ⟨nextDue_set_inactive hq hr, fun h => ?_⟩⟩
  exact Bool.false_ne_true (hq.symm.trans (nextDue_active h))

/-- Settles O36: a step is the platform reset, or it performs an input that leaves the clock or moves it on. -/
theorem clockIsMonotone : Obligations.ClockIsMonotone := by
  intro s t h
  refine ⟨fun hr => ?_, fun hr => ?_⟩
  · obtain ⟨i, rest, hne, h, -⟩ := step_performs_of_not_reset hr h
    exact (beginStep_tickCount s rest).ge.trans (perform_tickCount_le hne h)
  · obtain ⟨rest, rfl⟩ := step_reset hr h
    rfl

/-- Settles O37: the angle by its definition, and both bounds by the head's place on the track. -/
theorem headPositionFollowsTick : Obligations.HeadPositionFollowsTick := by
  intro s
  refine ⟨rfl, Nat.le_of_lt_succ (diskAngle_lt s), fun t hp ht => ?_, rfl,
    fun h => Nat.le_sub_one_of_lt (trackDataIndex_lt h)⟩
  rw [diskAngle, diskAngle, hp, ht]

/-- Settles O38: the count reaches `k` with the `k`-th revolution after its start, ten ticks into a revolution. -/
theorem indexCountReaches : Obligations.IndexCountReaches := by
  intro s u k htps hk
  have hrev : 0 < ticksPerRev s.params := Nat.div_pos htps (by decide)
  have hstart : (resetIndexCount s).fdc.indexCheckStartTick + s.tickCount % (s.params.tps / 5) = s.tickCount + 10 :=
    indexCheckStartTick_resetIndexCount s
  have hcount : k ≤ indexesFound { resetIndexCount s with tickCount := u } ↔
      (resetIndexCount s).fdc.indexCheckStartTick + k * (s.params.tps / 5) ≤ u := le_indexesFound_iff hrev hk
  rw [hcount]
  omega

end Sys2Proof.Machine
end

section
/-! SUPPORT. The cassette's port, motor and deck by what the rules promise of them: a port access goes to the cassette, the motor
follows its two signals, and a deck action runs with the motor released (41_cassette.md R172 to R179, R185, R188). -/

namespace Sys2Proof.Machine

section

variable {s : State} {f : State → Host.Outcome State Fault Refusal}

/-! ## The port (20_memory.md R62) -/

/-- The cassette port of well-formed parameters is no other port of the block. -/
theorem cassettePort_free {p : Config.Params} (h : p.wf = true) :
    p.cassettePort ∉ [0xE4#8, 0xE5#8, 0xE6#8, 0xE7#8, 0xF0#8, 0xF1#8, 0xF2#8, 0xF3#8, 0xF4#8] := by
  unfold Config.Params.wf at h
  rw [Bool.and_eq_true, Bool.not_eq_true', List.contains_eq_mem, decide_eq_false_iff_not] at h
  exact h.2

theorem portOut_cassette (h : s.params.wf = true) (v : Byte) : portOut s.params.cassettePort v s = cassetteWrite v s := by
  have hfree := cassettePort_free h
  simp only [List.mem_cons, List.not_mem_nil, or_false, not_or] at hfree
  simp [portOut, hfree]

theorem portIn_cassette (h : s.params.wf = true) :
    portIn s.params.cassettePort s =
      .next (emit (.busRead s.params.cassettePort (cassettePortByte s.cas)) (afterCassetteRead s)) := by
  have hfree := cassettePort_free h
  simp only [List.mem_cons, List.not_mem_nil, or_false, not_or] at hfree
  simp [portIn, hfree]

/-- The port byte has the flip-flop in bit 7 and the last polarity in bit 0 (R185). -/
theorem cassettePortByte_some {c : Cassette} {t : Transition} (h : c.transition = some t) :
    cassettePortByte c =
      (if t.flipFlop then 0x80#8 else 0x00#8) ||| (if t.lastNonZero = .positive then 0x01#8 else 0x00#8) := by
  rw [cassettePortByte, h]
  dsimp only
  cases t.flipFlop <;> cases t.lastNonZero <;> rfl

theorem cassettePortByte_none {c : Cassette} (h : c.transition = none) : cassettePortByte c = 0x00#8 := by
  rw [cassettePortByte, h]

/-- With no transition there is no flip-flop to clear. -/
theorem afterCassetteRead_none (h : s.cas.transition = none) : afterCassetteRead s = s := by
  rw [afterCassetteRead, h, Option.map_none, ← h]

/-- Settles O45: the access is the cassette's, and its byte and its effect go by the transition. -/
theorem cassettePortRead : Obligations.CassettePortRead := by
  intro s hwf
  rw [portIn_cassette hwf]
  refine ⟨fun hnone => ?_, fun t ht => ?_⟩
  · rw [cassettePortByte_none hnone, afterCassetteRead_none hnone]
    rfl
  · rw [cassettePortByte_some ht, afterCassetteRead, ht]
    rfl

/-! ## The motor (R172) -/

theorem motorTurnsOff_eq (s : State) :
    motorTurnsOff s = { s with
      cas := { s.cas with motorOn := false, transition := none }
      sched := { s.sched with read := { s.sched.read with active := false } } } := rfl

theorem updateMotor_records (hnew : (s.cas.motorEngaged && s.cas.motorOnSignal) = true) (hm : s.cas.motorOn = false)
    (hr : s.cas.recordInvoked = true) : updateMotor s = .next { s with cas := { s.cas with motorOn := true } } := by
  simp [updateMotor, hnew, hm, hr]

theorem updateMotor_reads (hnew : (s.cas.motorEngaged && s.cas.motorOnSignal) = true) (hm : s.cas.motorOn = false)
    (hr : s.cas.recordInvoked = false) (hc : s.cas.byteCursor < s.cas.data.size) :
    updateMotor s = .next (startRead { s with cas := { s.cas with motorOn := true } }) := by
  simp [updateMotor, hnew, hm, hr, withTape_of_lt hc]

theorem updateMotor_stops (hnew : (s.cas.motorEngaged && s.cas.motorOnSignal) = false) (hm : s.cas.motorOn = true) :
    updateMotor s = .next (motorTurnsOff s) := by
  simp [updateMotor, hnew, hm]

theorem updateMotor_unchanged (hnew : (s.cas.motorEngaged && s.cas.motorOnSignal) = s.cas.motorOn) :
    updateMotor s = .next s := by
  simp [updateMotor, hnew]

/-- Settles O46: the composite signal goes on to record or to read, goes off, or stays. -/
theorem motorFollowsSignals : Obligations.MotorFollowsSignals := fun s =>
  ⟨updateMotor_records, updateMotor_reads, fun hnew hm => by rw [updateMotor_stops hnew hm, motorTurnsOff_eq],
    updateMotor_unchanged⟩

/-! ## The deck (R173, R174, R177 to R179, R188) -/

theorem whileReleased_engaged (h : s.cas.motorEngaged = true) : whileReleased f s = .refused .deckNotEnabled := if_pos h

theorem whileReleased_released (h : s.cas.motorEngaged = false) : whileReleased f s = f s :=
  if_neg (by rw [h]; decide)

theorem play_released (h : s.cas.motorEngaged = false) :
    play s = updateMotor { s with cas := { s.cas with motorEngaged := true, recordInvoked := false } } :=
  whileReleased_released h

theorem record_released (h : s.cas.motorEngaged = false) :
    record s = updateMotor { s with cas := { s.cas with motorEngaged := true, recordInvoked := true } } :=
  whileReleased_released h

/-- The tape of a list of bytes reads as the list, and as nothing past its end. -/
theorem read?_ofBytes (bytes : List Byte) (i : Nat) : (Memory.ofBytes bytes).read? i = bytes[i]? := by
  have hb : cellRead (Memory.ofBytes bytes).cells i = bytes.getD i unlistedByte := Memory.byteAt_ofBytes bytes i
  rw [Memory.read?, hb, List.getD_eq_getElem?_getD]
  change (if i < bytes.length then _ else _) = _
  split
  · rename_i hi
    rw [List.getElem?_eq_getElem hi, Option.getD_some]
  · rename_i hi
    exact (List.getElem?_eq_none (Nat.le_of_not_lt hi)).symm

theorem insertTape_released {bytes : List Byte} (h : s.cas.motorEngaged = false) (hpos : 1 ≤ bytes.length)
    (hcap : bytes.length ≤ Config.maxTapeLength) :
    insertTape bytes s = .next { s with
      cas := rewound { s.cas with
        data := Memory.ofBytes bytes, isBlank := bytes.all (fun b => b == 0x00#8), changed := false } } := by
  have hwf : (Input.insertTape bytes).wf = true := by simp [Input.wf, hpos, hcap]
  rw [insertTape, whileReleased_released h, if_pos hwf]

theorem stopTape_running (h : s.cas.motorOn = true) :
    stopTape s = { s with
      cas := { s.cas with motorEngaged := false, recordInvoked := false, motorOn := false, transition := none }
      sched := { s.sched with read := { s.sched.read with active := false } } } := if_pos h

theorem stopTape_still (h : s.cas.motorOn = false) :
    stopTape s = { s with cas := { s.cas with motorEngaged := false, recordInvoked := false } } :=
  if_neg (by rw [h]; decide)

/-- Settles O47: each action is refused or changes the signals, and the motor follows them. -/
theorem deckActions : Obligations.DeckActions := by
  refine ⟨fun s bytes he => ?refused, fun s he => whileReleased_released he, fun s bytes he hpos hcap => ?inserted,
    fun s he hs hm => ?engaged, fun s => ⟨stopTape_running, stopTape_still⟩, fun s he hs hm => ?started, fun s => ?signal⟩
  case refused =>
    exact ⟨whileReleased_engaged he, whileReleased_engaged he, whileReleased_engaged he, whileReleased_engaged he⟩
  case inserted =>
    refine ⟨Memory.ofBytes bytes, Memory.ofBytes_wf bytes, rfl, read?_ofBytes bytes, ?_⟩
    have hblank : (bytes.all fun b => b == 0x00#8) = decide (∀ b ∈ bytes, b = 0x00#8) := by
      rw [Bool.eq_iff_iff]
      simp
    rw [insertTape_released he hpos hcap, hblank]
    rfl
  case engaged =>
    have hsame : (true && s.cas.motorOnSignal) = s.cas.motorOn := by rw [hs, hm]; rfl
    exact ⟨(play_released he).trans (updateMotor_unchanged hsame), (record_released he).trans (updateMotor_unchanged hsame)⟩
  case started =>
    exact ⟨fun hc => (play_released he).trans (updateMotor_reads hs hm rfl hc),
      (record_released he).trans (updateMotor_records hs hm rfl)⟩
  case signal =>
    have hon (he : s.cas.motorEngaged = true) : (s.cas.motorEngaged && true) = true := by rw [he]; rfl
    have hoff : (s.cas.motorEngaged && false) = false := Bool.and_false _
    exact ⟨fun he hm hr hc => updateMotor_reads (hon he) hm hr hc, fun he hm hr => updateMotor_records (hon he) hm hr,
      fun hem => updateMotor_unchanged ((Bool.and_true _).trans hem), fun hm => updateMotor_stops hoff hm,
      fun hm => updateMotor_unchanged (hoff.trans hm.symm)⟩

end

end Sys2Proof.Machine
end

section
/-! SUPPORT. The read path phase by phase: the cursor behind the waveform, the start of a bit, and the loop of the callback, which
catches up with the clock (41_cassette.md R175, R180 to R184). -/

namespace Sys2Proof.Machine

open Sys2Proof.Claims

section

variable {s u : State} {t : Transition}

/-! ## The cursor (R175, R180) -/

theorem leaveByte_reading (c : Cassette) : leaveByte false c = headerFed (c.data.byteAt c.byteCursor) c := rfl

/-- Within a byte, or at a byte's end before the tape's, the cursor moves on. -/
theorem advanceCursor_goesOn (h : TapeGoesOn s.cas) : advanceCursor false s = { s with cas := cursorRead s.cas } := by
  unfold advanceCursor cursorRead
  split
  · rfl
  · rename_i hbit
    obtain ⟨sp, fives, zeros, hl⟩ := leaveByte_frame false s.cas
    rw [if_pos (h.resolve_left hbit), ← leaveByte_reading, hl]
    rfl

/-- On the tape's last bit a running tape stops, the byte fed to the header detector. -/
theorem advanceCursor_ends (h : ¬ TapeGoesOn s.cas) (hm : s.cas.motorOn = true) :
    advanceCursor false s = tapeStopped (headerFed (s.cas.data.byteAt s.cas.byteCursor) s.cas) s := by
  obtain ⟨hbit, hbyte⟩ := not_or.mp h
  obtain ⟨sp, fives, zeros, hl⟩ := leaveByte_frame false s.cas
  have hrun : ({ s with cas := leaveByte false s.cas } : State).cas.motorOn = true := by rw [hl]; exact hm
  rw [advanceCursor, if_neg hbit, if_neg hbyte, Bool.false_and, if_neg Bool.false_ne_true, stopTape_running hrun]
  rfl

theorem cursorRead_frame (c : Cassette) :
    ∃ i j sp fives zeros, cursorRead c =
      { c with
        byteCursor := i, bitCursor := j, speed := sp, consecutiveFiftyFives := fives, consecutiveZeros := zeros } := by
  obtain ⟨sp, fives, zeros, hl⟩ := leaveByte_frame false c
  unfold cursorRead
  split
  · exact ⟨_, _, _, _, _, rfl⟩
  · rw [← leaveByte_reading, hl]
    exact ⟨_, _, _, _, _, rfl⟩

/-- While reading, the tape's bytes stand, and a transition that is left is the one before. -/
theorem advanceCursor_reading (s : State) :
    (advanceCursor false s).cas.data = s.cas.data ∧
      ∀ t, (advanceCursor false s).cas.transition = some t → s.cas.transition = some t := by
  obtain ⟨sp, fives, zeros, hl⟩ := leaveByte_frame false s.cas
  obtain ⟨-, h⟩ | ⟨-, -, h⟩ | ⟨-, -, hw, -⟩ | ⟨-, -, h⟩ := advanceCursor_cases false s
  · rw [h]
    exact ⟨rfl, fun _ => id⟩
  · rw [h, hl]
    exact ⟨rfl, fun _ => id⟩
  · exact absurd hw Bool.false_ne_true
  · rw [h, hl]
    unfold stopTape
    dsimp only
    split
    · exact ⟨rfl, nofun⟩
    · exact ⟨rfl, fun _ => id⟩

/-! ## Phases (R182, R183) -/

/-- How many phases in a row can last no tick after the end of this one, where `LO_PULSE_POS` and `LO_PULSE_NEG` are
anything (assumption log 20). -/
def Phase.idleAhead : Phase → Nat
  | .loClkPos | .loDatPos => 1
  | .loClkNeg | .loDatNeg => 0
  | .start | .hiPos | .hiNeg | .loPostClk | .loPostDat => 2

theorem Phase.idleAhead_le (ph : Phase) : ph.idleAhead ≤ 2 := by cases ph <;> decide

/-- The phases of the high format last (R182). -/
theorem hi_lasts (p : Config.Params) (bit : Bool) : 0 < phaseDuration p bit .hiPos ∧ 0 < phaseDuration p bit .hiNeg := by
  cases bit <;> exact ⟨Nat.succ_pos _, Nat.succ_pos _⟩

/-- The next phase of a bit lasts, or it is one of the phases of no tick counted ahead. -/
theorem Phase.following_lasts (p : Config.Params) {bit : Bool} {ph ph' : Phase} (h : ph.following bit = some ph') :
    0 < phaseDuration p bit ph' ∨ ph'.idleAhead < ph.idleAhead := by
  cases ph with
  | start | hiNeg | loPostDat => cases h
  | hiPos => cases h; exact .inl (hi_lasts p bit).2
  | loClkNeg => cases h; exact .inl (by cases bit <;> exact Nat.succ_pos _)
  | loDatNeg => cases h; exact .inl (Nat.succ_pos _)
  | loClkPos | loDatPos => cases h; exact .inr (by decide)
  | loPostClk => cases bit <;> cases h; exact .inr (by decide)

theorem Phase.idleAhead_of_last {bit : Bool} {ph : Phase} (h : ph.following bit = none) : ph.idleAhead = 2 := by
  cases ph with
  | start | hiPos | hiNeg | loPostClk | loPostDat => rfl
  | loClkPos | loClkNeg | loDatPos | loDatNeg => cases h

/-- The first phase of a bit lasts, or it is one of the phases of no tick counted ahead of the bit before. -/
theorem Phase.first_lasts (p : Config.Params) {bit : Bool} {ph : Phase} (h : ph.following bit = none) (sp : TapeSpeed)
    (b : Bool) : 0 < phaseDuration p b (firstPhase sp) ∨ (firstPhase sp).idleAhead < ph.idleAhead := by
  cases sp with
  | high => exact .inl (hi_lasts p b).1
  | low => exact .inr (by rw [idleAhead_of_last h]; decide)

/-! ## One phase after another (R183, R184) -/

/-- No phase has ended that the transition still stands in. -/
def CaughtUp (s : State) : Prop := ∀ t, s.cas.transition = some t → s.tickCount < t.phaseEnd

theorem CaughtUp.of_none (h : s.cas.transition = none) : CaughtUp s := fun t ht => by rw [h] at ht; cases ht

/-- A bound on the phases that can still end up to now: three for every tick left, and the phases of no tick ahead. -/
def phasesLeft (s : State) (t : Transition) : Nat := 3 * (s.tickCount + 1 - t.phaseEnd) + t.phase.idleAhead

theorem startBit_eq (s : State) :
    startBit s =
      match (advanceCursor false s).cas.transition with
      | none => advanceCursor false s
      | some t =>
        enterPhase (firstPhase (advanceCursor false s).cas.speed) { t with bit := tapeBit s.cas } (advanceCursor false s) :=
  rfl

theorem nextPhase_same_bit {ph : Phase} (ht : s.cas.transition = some t) (hph : t.phase.following t.bit = some ph) :
    nextPhase s = enterPhase ph t s := by
  simp only [nextPhase, ht, hph]

theorem nextPhase_new_bit (ht : s.cas.transition = some t) (hph : t.phase.following t.bit = none) :
    nextPhase s = startBit s := by
  simp only [nextPhase, ht, hph]

/-- A phase entered ends later than the one before, or fewer phases of no tick are ahead. -/
theorem nextPhase_progress {t' : Transition} (ht : s.cas.transition = some t)
    (ht' : (nextPhase s).cas.transition = some t') :
    t.phaseEnd < t'.phaseEnd ∨ (t.phaseEnd = t'.phaseEnd ∧ t'.phase.idleAhead < t.phase.idleAhead) := by
  cases hph : t.phase.following t.bit with
  | some ph =>
    rw [nextPhase_same_bit ht hph] at ht'
    cases ht'
    have hlasts := Phase.following_lasts s.params hph
    simp only [Transition.enter]
    omega
  | none =>
    rw [nextPhase_new_bit ht hph, startBit_eq] at ht'
    split at ht'
    · rename_i hnone
      rw [hnone] at ht'
      cases ht'
    · rename_i t₀ ht₀
      cases ht.symm.trans ((advanceCursor_reading s).2 t₀ ht₀)
      cases ht'
      have hlasts := Phase.first_lasts (advanceCursor false s).params hph (advanceCursor false s).cas.speed (tapeBit s.cas)
      simp only [Transition.enter]
      omega

theorem nextPhase_tickCount (s : State) : (nextPhase s).tickCount = s.tickCount := (nextPhase_deckWorked s).tickCount

theorem nextPhase_data (s : State) : (nextPhase s).cas.data = s.cas.data := by
  have hdata := (advanceCursor_reading s).1
  cases ht : s.cas.transition with
  | none => rw [nextPhase, ht]
  | some t =>
    cases hph : t.phase.following t.bit with
    | some ph => rw [nextPhase_same_bit ht hph]; rfl
    | none =>
      rw [nextPhase_new_bit ht hph, startBit_eq]
      split <;> exact hdata

theorem runPhases_data (fuel : Nat) (s : State) : (runPhases fuel s).cas.data = s.cas.data := by
  induction fuel generalizing s with
  | zero => rfl
  | succ fuel ih =>
    unfold runPhases
    split
    · rfl
    · split
      · rw [ih, nextPhase_data]
      · rfl

theorem runPhases_of_caughtUp (fuel : Nat) (h : CaughtUp s) : runPhases fuel s = s := by
  cases fuel with
  | zero => rfl
  | succ fuel =>
    unfold runPhases
    split
    · rfl
    · exact if_neg (Nat.not_le.mpr (h _ ‹_›))

theorem runPhases_overdue (fuel : Nat) (ht : s.cas.transition = some t) (hend : t.phaseEnd ≤ s.tickCount) :
    runPhases (fuel + 1) s = runPhases fuel (nextPhase s) := by
  simp only [runPhases, ht, if_pos hend]

/-- With more fuel than phases left the run catches up: every phase entered leaves fewer. -/
theorem runPhases_caughtUp {fuel : Nat} (h : ∀ t, s.cas.transition = some t → phasesLeft s t < fuel) :
    CaughtUp (runPhases fuel s) := by
  induction fuel generalizing s with
  | zero => exact fun t ht => absurd (h t ht) (Nat.not_lt_zero _)
  | succ fuel ih =>
    by_cases hup : CaughtUp s
    · rw [runPhases_of_caughtUp _ hup]
      exact hup
    · simp only [CaughtUp, not_forall, Nat.not_lt] at hup
      obtain ⟨t, ht, hend⟩ := hup
      rw [runPhases_overdue _ ht hend]
      refine ih fun t' ht' => ?_
      have hfuel := h t ht
      have hprogress := nextPhase_progress ht ht'
      have hidle := t'.phase.idleAhead_le
      unfold phasesLeft at hfuel ⊢
      rw [nextPhase_tickCount]
      omega

/-! ## The callback (R184) -/

theorem armRead_none (h : s.cas.transition = none) : armRead s = s := by rw [armRead, h]

theorem armRead_some (h : s.cas.transition = some t) : armRead s = readArmed (t.phaseEnd - s.tickCount) s := by
  rw [armRead, h]
  rfl

/-- The deferred clearing of the flip-flop, which comes before any phase is entered. -/
def flipFlopCleared (t : Transition) (s : State) : State := { s with cas.transition := some t.clearFlipFlop }

theorem cassetteReadCallback_none (h : s.cas.transition = none) : cassetteReadCallback s = .next s := by
  rw [cassetteReadCallback, h]

theorem cassetteReadCallback_some (h : s.cas.transition = some t) (hc : s.cas.byteCursor < s.cas.data.size) :
    cassetteReadCallback s =
      .next (armRead (runPhases (phaseFuel (flipFlopCleared t s)) (flipFlopCleared t s))) := by
  rw [cassetteReadCallback, h]
  exact withTape_of_lt hc

/-- The callback runs on the tape alone: off it the machine faults. -/
theorem cassetteReadCallback_onTape (h : s.cas.transition = some t) (hu : cassetteReadCallback s = .next u) :
    s.cas.byteCursor < s.cas.data.size := by
  rw [cassetteReadCallback, h] at hu
  exact (withTape_next hu).1

/-- The fuel of the callback is enough for every phase that is left. -/
theorem phasesLeft_lt_phaseFuel (h : s.cas.transition = some t) : phasesLeft s t < phaseFuel s := by
  have hidle := t.phase.idleAhead_le
  simp only [phasesLeft, phaseFuel, h]
  omega

/-- Settles O49: the loop of the callback has the fuel to catch up, and the request is armed for the phase it ends in. -/
theorem readCallbackCatchesUp : Obligations.ReadCallbackCatchesUp := by
  intro s u hu
  have hframe := cassetteReadCallback_deckWorked hu
  cases ht : s.cas.transition with
  | none =>
    cases (cassetteReadCallback_none ht).symm.trans hu
    exact ⟨fun t ht' => absurd (ht.symm.trans ht') nofun, rfl, rfl, rfl, rfl⟩
  | some t =>
    cases (cassetteReadCallback_some ht (cassetteReadCallback_onTape ht hu)).symm.trans hu
    have hup : CaughtUp (runPhases (phaseFuel (flipFlopCleared t s)) (flipFlopCleared t s)) :=
      runPhases_caughtUp fun _ => phasesLeft_lt_phaseFuel
    have hdata := runPhases_data (phaseFuel (flipFlopCleared t s)) (flipFlopCleared t s)
    generalize runPhases _ _ = r at *
    cases hr : r.cas.transition with
    | none =>
      rw [armRead_none hr] at *
      exact ⟨fun t ht' => absurd (hr.symm.trans ht') nofun, hframe.fdc, hframe.drives, hdata, hframe.tickCount⟩
    | some t' =>
      have hlt := hup t' hr
      rw [armRead_some hr] at *
      refine ⟨fun t₂ ht₂ => ?_, hframe.fdc, hframe.drives, hdata, hframe.tickCount⟩
      cases hr.symm.trans ht₂
      exact ⟨hlt, rfl, Nat.add_sub_of_le hlt.le, rfl⟩

end

end Sys2Proof.Machine
end

section
/-! SUPPORT. The read waveform: a bit begins, a phase of the same bit begins, or the tape ends, and the callback does one of them
when it is called at a phase's end (41_cassette.md R175, R181 to R184). -/

namespace Sys2Proof.Machine

open Sys2Proof.Claims

section

variable {s : State} {t : Transition}

/-! ## What the start of a bit reads (R183, R185) -/

theorem cursorRead_transition (c : Cassette) : (cursorRead c).transition = c.transition := by
  obtain ⟨i, j, sp, fives, zeros, h⟩ := cursorRead_frame c
  rw [h]

/-- The start of a bit sets the whole transition anew: the one that stands in the state is not read. -/
theorem bitBegins_overwrites (t : Transition) (o : Option Transition) (s : State) :
    bitBegins t { s with cas.transition := o } = bitBegins t s := by
  have hcursor : cursorRead { s.cas with transition := o } = { cursorRead s.cas with transition := o } := by
    unfold cursorRead headerFed
    split_ifs <;> rfl
  unfold bitBegins
  rw [hcursor]

theorem clearFlipFlop_eq (t : Transition) :
    t.clearFlipFlop = { t with flipFlop := t.flipFlop && !t.clearPending, clearPending := false } := by
  unfold Transition.clearFlipFlop
  split
  · rename_i hc
    rw [hc, Bool.not_true, Bool.and_false]
  · rename_i hc
    rw [Bool.not_eq_true] at hc
    rw [hc, Bool.not_false, Bool.and_true, ← hc]

@[simp] theorem clearFlipFlop_phaseEnd (t : Transition) : t.clearFlipFlop.phaseEnd = t.phaseEnd := by rw [clearFlipFlop_eq]

@[simp] theorem clearFlipFlop_clearPending (t : Transition) : t.clearFlipFlop.clearPending = false := by
  rw [clearFlipFlop_eq]

theorem bitBegins_clearFlipFlop (t : Transition) (s : State) : bitBegins t.clearFlipFlop s = bitBegins t s := by
  simp only [clearFlipFlop_eq, bitBegins, Bool.not_false, Bool.and_true]

/-- The end of the tape takes the transition away, whatever it was. -/
theorem tapeStopped_overwrites (b : Byte) (o : Option Transition) (s : State) :
    tapeStopped (headerFed b { s.cas with transition := o }) { s with cas.transition := o } =
      tapeStopped (headerFed b s.cas) s := by
  unfold headerFed
  split_ifs <;> rfl

/-! ## The start of a bit (R183) -/

theorem startBit_goesOn (ht : s.cas.transition = some t) (h : TapeGoesOn s.cas) :
    startBit s =
      enterPhase (firstPhase (cursorRead s.cas).speed) { t with bit := tapeBit s.cas } { s with cas := cursorRead s.cas } := by
  have hc : (cursorRead s.cas).transition = some t := (cursorRead_transition s.cas).trans ht
  rw [startBit_eq, advanceCursor_goesOn h]
  simp only [hc]

theorem startBit_ends (h : ¬ TapeGoesOn s.cas) (hm : s.cas.motorOn = true) :
    startBit s = tapeStopped (headerFed (s.cas.data.byteAt s.cas.byteCursor) s.cas) s := by
  rw [startBit_eq, advanceCursor_ends h hm]
  rfl

/-- The first phase of a bit at each speed, as the table of R182 gives it. -/
theorem firstPhase_eq (p : Config.Params) (sp : TapeSpeed) (b : Bool) :
    firstPhase sp = (if sp = .high then .hiPos else .loClkPos) ∧ (firstPhase sp).polarity = .positive ∧
      phaseDuration p b (firstPhase sp) = if sp = .high then (if b then 378000 else 771000) else p.loPulsePos := by
  cases sp <;> exact ⟨rfl, rfl, rfl⟩

/-- An edge is latched where a phase is entered from another polarity (D34). -/
theorem risingEdge_eq (before pol : Polarity) :
    risingEdge before pol = decide (pol = .positive ∧ before ≠ .positive) := by
  cases before <;> cases pol <;> rfl

theorem fallingEdge_eq (before pol : Polarity) :
    fallingEdge before pol = decide (pol = .negative ∧ before ≠ .negative) := by
  cases before <;> cases pol <;> rfl

/-- A phase entered from one that ends now, no clearing of the flip-flop pending, and its request armed at the end of it (R183,
R184). -/
theorem armRead_enterPhase {ph : Phase} {pol : Polarity} {dur : Nat} (hpol : ph.polarity = pol)
    (hdur : phaseDuration s.params t.bit ph = dur) (hend : t.phaseEnd = s.tickCount) (hc : t.clearPending = false) :
    armRead (enterPhase ph t s) = readArmed dur { s with
      cas := { s.cas with
        transition := some
          { phase := ph, bit := t.bit, phaseEnd := t.phaseEnd + dur, before := t.after, after := pol
            lastNonZero := if pol = .zero then t.lastNonZero else pol
            flipFlop := t.flipFlop || decide (pol = .positive ∧ t.after ≠ .positive), clearPending := false } }
      latches := { s.latches with
        cassetteRisingEdge := s.latches.cassetteRisingEdge || decide (pol = .positive ∧ t.after ≠ .positive)
        cassetteFallingEdge := s.latches.cassetteFallingEdge || decide (pol = .negative ∧ t.after ≠ .negative) } } := by
  have hn : (t.enter ph dur).phaseEnd - s.tickCount = dur := by
    simp only [Transition.enter, hend, Nat.add_sub_cancel_left]
  subst hpol hdur
  rw [armRead_some rfl, enterPhase_tickCount, hn, ← risingEdge_eq, ← fallingEdge_eq, ← hc]
  rfl

/-- The bit under the cursor begins, where no clearing of the flip-flop is pending. -/
theorem armRead_startBit (ht : s.cas.transition = some t) (hend : t.phaseEnd = s.tickCount) (hc : t.clearPending = false)
    (h : TapeGoesOn s.cas) : armRead (startBit s) = bitBegins t s := by
  obtain ⟨hph, hpol, hdur⟩ := firstPhase_eq s.params (cursorRead s.cas).speed (tapeBit s.cas)
  have hbegins := armRead_enterPhase (s := { s with cas := cursorRead s.cas }) (t := { t with bit := tapeBit s.cas })
    hpol hdur hend hc
  rw [startBit_goesOn ht h, hbegins, hph]
  simp only [bitBegins, hend, hc, Bool.not_false, Bool.and_true, true_and, reduceCtorEq, false_and, decide_false,
    Bool.or_false]
  rfl

/-- The first phase of a bit ends later than it begins. -/
theorem startBit_caughtUp (ht : s.cas.transition = some t) (hend : t.phaseEnd = s.tickCount)
    (hpos : 0 < s.params.loPulsePos) (h : TapeGoesOn s.cas) : CaughtUp (startBit s) := by
  intro t' ht'
  rw [startBit_goesOn ht h] at ht' ⊢
  cases ht'
  obtain ⟨-, -, hdur⟩ := firstPhase_eq s.params (cursorRead s.cas).speed (tapeBit s.cas)
  simp only [Transition.enter, enterPhase_tickCount, hdur, hend]
  split_ifs <;> omega

/-- `StartRead` begins the bit under the cursor, or ends the tape (R181). -/
theorem startRead_eq (s : State) :
    startRead s = armRead (startBit { s with cas.transition := some (freshTransition s.tickCount) }) := rfl

theorem startRead_goesOn (h : TapeGoesOn s.cas) : startRead s = bitBegins (freshTransition s.tickCount) s := by
  have hbegins := armRead_startBit (s := { s with cas.transition := some (freshTransition s.tickCount) }) rfl rfl rfl h
  rw [startRead_eq, hbegins, bitBegins_overwrites]

theorem startRead_ends (h : ¬ TapeGoesOn s.cas) (hm : s.cas.motorOn = true) :
    startRead s = tapeStopped (headerFed (s.cas.data.byteAt s.cas.byteCursor) s.cas) s := by
  have hends := startBit_ends (s := { s with cas.transition := some (freshTransition s.tickCount) }) h hm
  rw [startRead_eq, hends]
  exact (armRead_none rfl).trans (tapeStopped_overwrites _ _ s)

/-! ## The callback at the end of a phase (R184) -/

/-- Called at a phase's end the callback goes on by one phase, where that phase lasts or the tape ends. -/
theorem cassetteReadCallback_onTime (ht : s.cas.transition = some t) (hend : t.phaseEnd = s.tickCount)
    (hc : s.cas.byteCursor < s.cas.data.size) (hup : CaughtUp (nextPhase (flipFlopCleared t s))) :
    cassetteReadCallback s = .next (armRead (nextPhase (flipFlopCleared t s))) := by
  have hended : t.clearFlipFlop.phaseEnd = s.tickCount := (clearFlipFlop_phaseEnd t).trans hend
  have hfuel : phaseFuel (flipFlopCleared t s) = 5 + 1 := by
    simp only [phaseFuel, flipFlopCleared, hended]
    omega
  rw [cassetteReadCallback_some ht hc, hfuel, runPhases_overdue (s := flipFlopCleared t s) 5 rfl hended.le,
    runPhases_of_caughtUp 5 hup]

/-- A phase after which the next bit begins (R182, R183). -/
theorem following_none_of_last (h : t.phase ∈ [.start, .hiNeg, .loPostDat] ∨ (t.phase = .loPostClk ∧ t.bit = false)) :
    t.phase.following t.bit = none := by
  simp only [List.mem_cons, List.not_mem_nil, or_false] at h
  obtain (h | h | h) | ⟨h, hb⟩ := h <;> rw [h]
  · rfl
  · rfl
  · rfl
  · rw [hb]
    rfl

theorem nextPhase_flipFlopCleared_last (hlast : t.phase.following t.bit = none) :
    nextPhase (flipFlopCleared t s) = startBit (flipFlopCleared t s) :=
  nextPhase_new_bit (t := t.clearFlipFlop) rfl (by rw [clearFlipFlop_eq]; exact hlast)

theorem cassetteReadCallback_newBit (ht : s.cas.transition = some t) (hend : t.phaseEnd = s.tickCount)
    (hc : s.cas.byteCursor < s.cas.data.size) (hlast : t.phase.following t.bit = none) (h : TapeGoesOn s.cas)
    (hpos : 0 < s.params.loPulsePos) : cassetteReadCallback s = .next (bitBegins t s) := by
  have hended : t.clearFlipFlop.phaseEnd = s.tickCount := (clearFlipFlop_phaseEnd t).trans hend
  have hup : CaughtUp (startBit (flipFlopCleared t s)) := startBit_caughtUp rfl hended hpos h
  have hbegins := armRead_startBit (s := flipFlopCleared t s) rfl hended (clearFlipFlop_clearPending t) h
  rw [cassetteReadCallback_onTime ht hend hc (nextPhase_flipFlopCleared_last hlast ▸ hup),
    nextPhase_flipFlopCleared_last hlast, hbegins, flipFlopCleared, bitBegins_overwrites, bitBegins_clearFlipFlop]

theorem cassetteReadCallback_tapeEnd (ht : s.cas.transition = some t) (hend : t.phaseEnd = s.tickCount)
    (hc : s.cas.byteCursor < s.cas.data.size) (hlast : t.phase.following t.bit = none) (h : ¬ TapeGoesOn s.cas)
    (hm : s.cas.motorOn = true) :
    cassetteReadCallback s = .next (tapeStopped (headerFed (s.cas.data.byteAt s.cas.byteCursor) s.cas) s) := by
  have hstop : nextPhase (flipFlopCleared t s) =
      tapeStopped (headerFed (s.cas.data.byteAt s.cas.byteCursor) s.cas) s := by
    rw [nextPhase_flipFlopCleared_last hlast]
    exact (startBit_ends (s := flipFlopCleared t s) h hm).trans (tapeStopped_overwrites _ _ s)
  have hnone : (nextPhase (flipFlopCleared t s)).cas.transition = none := by rw [hstop]; rfl
  rw [cassetteReadCallback_onTime ht hend hc (.of_none hnone), armRead_none hnone, hstop]

/-- The table of R182: the phase that follows inside the same bit, with its polarity and duration. -/
theorem following_of_phaseAfter {p : Config.Params} {bit : Bool} {ph ph' : Phase} {pol : Polarity} {dur : Nat}
    (h : phaseAfter p bit ph = some (ph', pol, dur)) :
    ph.following bit = some ph' ∧ ph'.polarity = pol ∧ phaseDuration p bit ph' = dur := by
  cases ph <;> cases bit <;> cases h <;> exact ⟨rfl, rfl, rfl⟩

/-- Settles O48: the cursor, the start of a read, and the callback at the end of a bit and inside one. -/
theorem waveformRuns : Obligations.WaveformRuns := by
  refine ⟨fun s => ⟨advanceCursor_goesOn, advanceCursor_ends⟩, fun s => ⟨startRead_goesOn, startRead_ends⟩,
    fun s t ht hend hc hlast => ?_, fun s t ph pol dur ht hend hc hafter hdur => ?_⟩
  · have hnone := following_none_of_last hlast
    exact ⟨cassetteReadCallback_newBit ht hend hc hnone, cassetteReadCallback_tapeEnd ht hend hc hnone⟩
  · obtain ⟨hfollows, hpol, hlasts⟩ := following_of_phaseAfter hafter
    have hnext : nextPhase (flipFlopCleared t s) = enterPhase ph t.clearFlipFlop (flipFlopCleared t s) :=
      nextPhase_same_bit rfl (by rw [clearFlipFlop_eq]; exact hfollows)
    have hup : CaughtUp (enterPhase ph t.clearFlipFlop (flipFlopCleared t s)) := fun t' ht' => by
      cases ht'
      simp only [Transition.enter, enterPhase_tickCount, clearFlipFlop_eq, flipFlopCleared, hlasts]
      omega
    have hentered := armRead_enterPhase (s := flipFlopCleared t s)
      (t := { t with flipFlop := t.flipFlop && !t.clearPending, clearPending := false }) hpol hlasts hend rfl
    rw [cassetteReadCallback_onTime ht hend hc (hnext ▸ hup), hnext, clearFlipFlop_eq, hentered]
    rfl

end

end Sys2Proof.Machine
end

section
/-! SUPPORT. The write path: one bit of the tape is written and the cursor moves on, and an edge of the port is classed by the
time since the one before (41_cassette.md R175, R176, R190 to R195). -/

namespace Sys2Proof.Machine

open Sys2Proof.Claims

section

variable {s : State}

/-! ## A bit of a byte and a byte of the tape -/

/-- The bit set reads back, and every other bit of the byte reads as before. -/
theorem getLsbD_setBit (v : Byte) (b : Bool) {j k : Nat} (hj : j < 8) :
    (setBit v k b).getLsbD j = if j = k then b else v.getLsbD j := by
  unfold setBit
  cases b <;> by_cases hjk : j = k <;> grind

/-- Past the end of an array in canonical form no byte is listed. -/
theorem cellRead_pastEnd {n lo i : Nat} {cells : List Host.Cell} (h : cellsWf n lo cells = true) (hi : n ≤ i) :
    cellRead cells i = unlistedByte := by
  induction cells generalizing lo with
  | nil => rfl
  | cons c rest ih =>
    obtain ⟨a, v⟩ := c
    obtain ⟨-, ha, -, hrest⟩ := cellsWf_cons.mp h
    rw [cellRead, if_neg (by omega)]
    exact ih hrest

/-! ## The cursor while writing (R175, R176) -/

theorem advanceCursor_inByte (w : Bool) (h : 0 < s.cas.bitCursor) :
    advanceCursor w s = { s with cas.bitCursor := s.cas.bitCursor - 1 } := if_pos h

theorem advanceCursor_writesOn (hbit : s.cas.bitCursor = 0) (hbyte : s.cas.byteCursor + 1 < s.cas.data.size) :
    advanceCursor true s = { s with cas := toNextByte s.cas } := by
  rw [advanceCursor, if_neg (by omega), if_pos hbyte]
  rfl

theorem advanceCursor_grows (hbit : s.cas.bitCursor = 0) (hbyte : s.cas.data.size ≤ s.cas.byteCursor + 1)
    (hgrow : s.cas.data.size < grownLength s.cas) :
    advanceCursor true s = { s with cas := toNextByte { s.cas with data := s.cas.data.grow (grownLength s.cas) } } := by
  have hcan : (true && canGrow s.cas) = true := by rw [Bool.true_and, canGrow, decide_eq_true hgrow]
  rw [advanceCursor, if_neg (by omega), if_neg (by omega), if_pos hcan]

theorem advanceCursor_stops (hbit : s.cas.bitCursor = 0) (hbyte : s.cas.data.size ≤ s.cas.byteCursor + 1)
    (hfull : grownLength s.cas ≤ s.cas.data.size) : advanceCursor true s = stopTape s := by
  have hcannot : (true && canGrow s.cas) = false := by rw [Bool.true_and, canGrow, decide_eq_false (by omega)]
  rw [advanceCursor, if_neg (by omega), if_neg (by omega), if_neg (by rw [hcannot]; decide)]
  rfl

/-- `Stop` leaves the tape, its marks and its cursor, and both motors are off after it. -/
theorem stopTape_tape (s : State) :
    (stopTape s).cas.data = s.cas.data ∧ (stopTape s).cas.isBlank = s.cas.isBlank ∧
      (stopTape s).cas.changed = s.cas.changed ∧ (stopTape s).cas.byteCursor = s.cas.byteCursor ∧
      (stopTape s).cas.bitCursor = s.cas.bitCursor ∧ (stopTape s).cas.motorEngaged = false ∧
      (stopTape s).cas.motorOn = false := by
  cases hm : s.cas.motorOn with
  | true => rw [stopTape_running hm]; exact ⟨rfl, rfl, rfl, rfl, rfl, rfl, rfl⟩
  | false => rw [stopTape_still hm]; exact ⟨rfl, rfl, rfl, rfl, rfl, rfl, hm⟩

/-- While writing the cursor leaves every byte and both marks of the tape; the tape may grow. -/
theorem advanceCursor_writing (s : State) :
    (∀ i, (advanceCursor true s).cas.data.byteAt i = s.cas.data.byteAt i) ∧
      (advanceCursor true s).cas.isBlank = s.cas.isBlank ∧ (advanceCursor true s).cas.changed = s.cas.changed := by
  obtain ⟨-, h⟩ | ⟨-, -, h⟩ | ⟨-, -, -, -, h⟩ | ⟨-, -, h⟩ := advanceCursor_cases true s <;> rw [h]
  · exact ⟨fun _ => rfl, rfl, rfl⟩
  · exact ⟨fun _ => rfl, rfl, rfl⟩
  · exact ⟨fun _ => rfl, rfl, rfl⟩
  · obtain ⟨hdata, hblank, hchanged, -⟩ := stopTape_tape { s with cas := leaveByte true s.cas }
    rw [hdata]
    exact ⟨fun _ => rfl, hblank, hchanged⟩

/-! ## The bit written (R195) -/

/-- The state with the bit under the cursor written, before the cursor moves on. -/
def bitPut (b : Bool) (s : State) : State :=
  { s with
    cas.data := s.cas.data.write s.cas.byteCursor (setBit (s.cas.data.byteAt s.cas.byteCursor) s.cas.bitCursor b)
    cas.isBlank := s.cas.isBlank && !b
    cas.changed := true }

theorem writeBit_eq (b : Bool) (s : State) : writeBit b s = advanceCursor true (bitPut b s) := rfl

@[simp] theorem bitPut_size (b : Bool) (s : State) : (bitPut b s).cas.data.size = s.cas.data.size :=
  Memory.write_size _ _ _

/-- Of the whole tape one bit is written, the one under the cursor. -/
theorem getLsbD_bitPut (h : CassetteInv s) (b : Bool) (i : Nat) {j : Nat} (hj : j < 8) :
    ((bitPut b s).cas.data.byteAt i).getLsbD j =
      if i = s.cas.byteCursor ∧ j = s.cas.bitCursor then b else (s.cas.data.byteAt i).getLsbD j := by
  have hbyte : (bitPut b s).cas.data.byteAt i =
      if i = s.cas.byteCursor then setBit (s.cas.data.byteAt s.cas.byteCursor) s.cas.bitCursor b
      else s.cas.data.byteAt i := Memory.byteAt_write _ i h.canonical h.byteCursor
  rw [hbyte]
  by_cases hi : i = s.cas.byteCursor
  · rw [if_pos hi, getLsbD_setBit _ b hj, hi]
    simp
  · rw [if_neg hi, if_neg (fun hij => hi hij.1)]

/-- Past the end of the tape nothing is written. -/
theorem byteAt_bitPut_pastEnd (h : CassetteInv s) (b : Bool) {i : Nat} (hi : s.cas.data.size ≤ i) :
    (bitPut b s).cas.data.byteAt i = 0x00#8 := by
  refine cellRead_pastEnd (n := s.cas.data.size) (lo := 0) ?_ hi
  have hwf : (bitPut b s).cas.data.wf = true := Memory.write_wf _ _ h.canonical
  rwa [Memory.wf, bitPut_size] at hwf

/-- Settles O50: the bit is put under the cursor, and the cursor moves by one of its four cases. -/
theorem tapeBitWritten : Obligations.TapeBitWritten := by
  intro s b h
  obtain ⟨hbytes, hblank, hchanged⟩ := advanceCursor_writing (bitPut b s)
  have hsize := bitPut_size b s
  have hlength : grownLength (bitPut b s).cas = min 73728 (s.cas.data.size * 11 / 10) := by
    rw [grownLength, hsize]
    rfl
  have hlast (hbyte : s.cas.byteCursor + 1 = s.cas.data.size) :
      (bitPut b s).cas.data.size ≤ (bitPut b s).cas.byteCursor + 1 := (hsize.trans hbyte.symm).le
  dsimp only
  rw [writeBit_eq]
  refine ⟨fun i j _ hj => ?_, fun i hi hlt => ?_, hblank, hchanged, fun hbit => ?_, fun hbit hbyte => ?_,
    fun hbit hbyte hgrow => ?_, fun hbit hbyte hfull => ?_⟩
  · rw [hbytes]
    exact getLsbD_bitPut h b i hj
  · have hread : cellRead (advanceCursor true (bitPut b s)).cas.data.cells i = 0x00#8 :=
      (hbytes i).trans (byteAt_bitPut_pastEnd h b hi)
    rw [tapeByte, Memory.read?, if_pos hlt, hread]
  · rw [advanceCursor_inByte (s := bitPut b s) true hbit]
    exact ⟨rfl, rfl, hsize, rfl⟩
  · rw [advanceCursor_writesOn (s := bitPut b s) hbit (hbyte.trans_eq hsize.symm)]
    exact ⟨rfl, rfl, hsize, rfl⟩
  · rw [advanceCursor_grows (s := bitPut b s) hbit (hlast hbyte) (by rw [hsize, hlength]; exact hgrow)]
    exact ⟨hlength, rfl, rfl, rfl⟩
  · rw [advanceCursor_stops (s := bitPut b s) hbit (hlast hbyte) (by rw [hsize, hlength]; exact hfull)]
    obtain ⟨hdata, -, -, hbyteCursor, hbitCursor, hengaged, hmotor⟩ := stopTape_tape (bitPut b s)
    exact ⟨hdata ▸ hsize, hbyteCursor, hbitCursor.trans hbit, hengaged, hmotor⟩

/-! ## An edge of the port (R190, R191) -/

/-- The polarity of bits 1:0, as R190 words it. -/
theorem polarityOf_eq (v : Byte) : polarityOf v = portPolarity v := by
  unfold polarityOf portPolarity bitAt
  cases v.getLsbD 1 <;> cases v.getLsbD 0 <;> rfl

theorem cassetteStatus_writing (c : Cassette) :
    cassetteStatus c = .writing ↔ c.motorOn = true ∧ c.recordInvoked = true := by
  unfold cassetteStatus
  cases c.motorOn <;> cases c.recordInvoked <;> cases c.motorEngaged <;> cases c.motorOnSignal <;> decide

/-- A repeated polarity is no edge. -/
theorem cassetteWrite_repeated {v : Byte} (h : portPolarity v = s.cas.lastWritePolarity) : cassetteWrite v s = .next s := by
  rw [cassetteWrite, polarityOf_eq, if_pos h]

/-- An edge that is not positive, or that comes while the tape is not written, is noted and not measured. -/
theorem cassetteWrite_unmeasured {v : Byte} (h : portPolarity v ≠ s.cas.lastWritePolarity)
    (hno : portPolarity v ≠ .positive ∨ s.cas.motorOn = false ∨ s.cas.recordInvoked = false) :
    cassetteWrite v s = .next (polarityNoted (portPolarity v) s) := by
  have hnot : ¬ (portPolarity v = .positive ∧ cassetteStatus s.cas = .writing) := by
    rw [cassetteStatus_writing]
    rintro ⟨hp, hm, hr⟩
    obtain hno | hno | hno := hno
    · exact hno hp
    · exact Bool.false_ne_true (hno.symm.trans hm)
    · exact Bool.false_ne_true (hno.symm.trans hr)
  rw [cassetteWrite, polarityOf_eq, if_neg h, if_neg hnot]
  rfl

/-- A positive edge while the tape is written is measured. -/
theorem cassetteWrite_measured {v : Byte} (h : s.cas.lastWritePolarity ≠ .positive) (hp : portPolarity v = .positive)
    (hm : s.cas.motorOn = true) (hr : s.cas.recordInvoked = true) (hc : s.cas.byteCursor < s.cas.data.size) :
    cassetteWrite v s =
      .next { positiveEdge (dropFlipFlop s) with cas.lastWritePolarity := .positive } := by
  rw [cassetteWrite, polarityOf_eq, hp, if_neg (Ne.symm h), if_pos ⟨rfl, (cassetteStatus_writing _).mpr ⟨hm, hr⟩⟩,
    withTape_of_lt hc]

/-! ## The classes of intervals (R191 to R194) -/

/-- A positive edge with its timestamps noted, before it is classed. -/
def edgeNoted (s : State) : State := { s with cas := edgeTimed s.tickCount s.cas }

/-- A positive edge is classed by the ticks since the one before. -/
theorem positiveEdge_dropFlipFlop (s : State) :
    positiveEdge (dropFlipFlop s) =
      match edgeClass (s.tickCount - s.cas.lastWritePositive) with
      | .high => highClass (s.tickCount - s.cas.lastWritePositive) (edgeNoted s)
      | .low => lowClass (s.tickCount - s.cas.lastWritePositive) (edgeNoted s)
      | .ignored => edgeNoted s := rfl

theorem edgeClass_high {d : Nat} (h : (721000 ≤ d ∧ d ≤ 797000) ∨ (1459000 ≤ d ∧ d ≤ 1861000)) : edgeClass d = .high :=
  if_pos h

theorem edgeClass_low {d : Nat} (h : (1923000 ≤ d ∧ d ≤ 2281000) ∨ (3858000 ≤ d ∧ d ≤ 4379000)) : edgeClass d = .low := by
  rw [edgeClass, if_neg (by omega), if_pos h]

theorem edgeClass_ignored {d : Nat} (hhigh : ¬ ((721000 ≤ d ∧ d ≤ 797000) ∨ (1459000 ≤ d ∧ d ≤ 1861000)))
    (hlow : ¬ ((1923000 ≤ d ∧ d ≤ 2281000) ∨ (3858000 ≤ d ∧ d ≤ 4379000))) : edgeClass d = .ignored := by
  rw [edgeClass, if_neg hhigh, if_neg hlow]

theorem lowClass_skipped (s : State) (d : Nat) (h : s.cas.skippedLast = true) :
    lowClass d s = writeBit true { s with cas := { countLow s.cas with skippedLast := false } } := if_pos h

theorem lowClass_zero (s : State) {d : Nat} (h : s.cas.skippedLast = false)
    (hd : Config.loThreshold < d) :
    lowClass d s = writeBit false { s with cas := countLow s.cas } := by
  rw [lowClass, if_neg (by rw [h]; decide), if_pos hd]

theorem lowClass_clock (s : State) {d : Nat} (h : s.cas.skippedLast = false) (hd : d ≤ Config.loThreshold) :
    lowClass d s = { s with cas := { countLow s.cas with skippedLast := true } } := by
  rw [lowClass, if_neg (by rw [h]; decide), if_neg (Nat.not_lt.mpr hd)]

/-- Settles O51: the write is the cassette's, and a measured edge is classed by its interval. -/
theorem writeEdgesClassified : Obligations.WriteEdgesClassified := by
  refine ⟨fun s v hwf => ?_, fun s v hwf hm hr hc hp hpol => ?_⟩
  · rw [portOut_cassette hwf]
    exact ⟨cassetteWrite_repeated, cassetteWrite_unmeasured⟩
  · rw [portOut_cassette hwf, cassetteWrite_measured hpol hp hm hr hc, positiveEdge_dropFlipFlop]
    refine ⟨fun hhigh => ?_, fun hlow hskip => ?_, fun hlow hskip hd => ?_, fun hlow hskip hd => ?_,
      fun hhigh hlow => ?_⟩
    · rw [edgeClass_high hhigh]
      rfl
    · rw [edgeClass_low hlow]
      dsimp only
      rw [lowClass_skipped (edgeNoted s) _ hskip]
      rfl
    · rw [edgeClass_low hlow]
      dsimp only
      rw [lowClass_zero (edgeNoted s) hskip hd]
      rfl
    · rw [edgeClass_low hlow]
      dsimp only
      rw [lowClass_clock (edgeNoted s) hskip hd]
      rfl
    · rw [edgeClass_ignored hhigh hlow]
      rfl

end

end Sys2Proof.Machine
end

section
/-! SUPPORT. The start of a command of Type I, II or III in the write of its byte: the fields taken from the byte, and the
first rule of the command run at once (30_encoding.md R91 to R94, 42_fdc_ports_dispatch.md R240, 43_fdc_type1.md R283,
44_fdc_type2.md R310, 45_fdc_type3.md R360, R370, R380). -/

namespace Sys2Proof.Machine

/-! ## The fields of the command bytes (R91, R93, R94) -/

/-- The low four bits of Restore and Seek are `h V r r`. -/
theorem seekByte_fields (c : BitVec 4) (h v : Bool) (r : BitVec 2) :
    let b : Byte := c ++ BitVec.ofBool h ++ BitVec.ofBool v ++ r
    verifyField b = v ∧ rateField b = r := by
  revert c h v r
  decide

/-- The low five bits of a sector command are `m S E C a0`. -/
theorem sectorByte_fields (c : BitVec 3) (m sd e sv a : Bool) :
    let b : Byte :=
      c ++ BitVec.ofBool m ++ BitVec.ofBool sd ++ BitVec.ofBool e ++ BitVec.ofBool sv ++ BitVec.ofBool a
    delayField b = e ∧ sideVerifyField b = sv ∧ sideOneField b = sd ∧ multipleField b = m ∧ deletedField b = a := by
  revert c m sd e sv a
  decide

/-- Bit 2 of a Type III command is `E`. -/
theorem typeIIIByte_delay (c : BitVec 4) (x3 e : Bool) (x10 : BitVec 2) :
    delayField (c ++ BitVec.ofBool x3 ++ BitVec.ofBool e ++ x10) = e := by
  revert c x3 e x10
  decide

section

variable {s : State} {f : Fdc}

/-! ## Restore and Seek (R281 to R283, R285, R290) -/

/-- The verify choice is the promised one. -/
theorem checkVerify_eq_verifyChecked (s : State) : checkVerify s = Claims.verifyChecked s.fdc s := by
  unfold checkVerify Claims.verifyChecked
  split <;> rfl

/-- The verify choice sets the sequencer's state itself, and takes the registers it is given. -/
theorem verifyChecked_withFdc (st : OpStatus) (f g : Fdc) (s : State) :
    Claims.verifyChecked { f with opStatus := st } { s with fdc := g } = Claims.verifyChecked f s := by
  unfold Claims.verifyChecked
  by_cases hv : f.verify = true
  · exact (if_pos hv).trans (if_pos hv).symm
  · exact (if_neg hv).trans (if_neg hv).symm

/-- A pass sets the sequencer's state itself, and takes the registers it is given. -/
theorem stepPassed_withFdc (us : Nat) (st : OpStatus) (f g : Fdc) (s : State)
    (hd : g.currentDrive = s.fdc.currentDrive := by rfl) :
    Claims.stepPassed us { f with opStatus := st } { s with fdc := g } = Claims.stepPassed us f s := by
  have hzero (up : Bool) : Claims.endsOnTrackZero up { s with fdc := g } = Claims.endsOnTrackZero up s := by
    simp only [Claims.endsOnTrackZero, hd]
  have hmoves (up : Bool) : Claims.headMoves up { s with fdc := g } = Claims.headMoves up s := by
    simp only [Claims.headMoves, hd]
  have hdrives (up : Bool) : Claims.steppedDrives up { s with fdc := g } = Claims.steppedDrives up s := by
    simp only [Claims.steppedDrives, hd]
  rw [Claims.stepPassed, hzero, hmoves, hdrives]
  rfl

/-- A seeking command on its target goes on to the verify choice (D13). -/
theorem typeIStep_on_target (hc : s.fdc.command.seeks = true) (h : s.fdc.dataRegister = s.fdc.trackRegister) :
    typeIStep s = Claims.verifyChecked s.fdc s := by
  rw [typeIStep, if_pos hc, if_pos h, checkVerify_eq_verifyChecked]
  exact verifyChecked_withFdc .checkVerify s.fdc _ s

/-- A seeking command off its target makes one pass towards it. -/
theorem typeIStep_off_target (hc : s.fdc.command.seeks = true) (h : s.fdc.dataRegister ≠ s.fdc.trackRegister) :
    typeIStep s = Claims.stepPassed (stepRate s)
      { s.fdc with lastStepDirUp := decide (s.fdc.trackRegister < s.fdc.dataRegister) } s := by
  rw [typeIStep, if_pos hc, if_neg h, stepPass_eq_stepPassed]
  rfl

/-- The registers of a seeking command where its stepping begins: started, decoded, in state `Step` (R283). -/
def seekPrepared (v : Byte) (c : Command) (s : State) : State :=
  { typeIDecode (acceptCommand v c s) with fdc.opStatus := .step }

theorem startCommand_seeks (v : Byte) {c : Command} (hc : c = .restore ∨ c = .seek) (h : Claims.Ready s) :
    startCommand v c s = .next (typeIStep (seekPrepared v c s)) := by
  rw [startCommand_of_ready v c h]
  exact hc.elim (fdcAdvance_restore_prepare · rfl) (fdcAdvance_seek_prepare · rfl)

/-- Restore forces the registers apart, so that its first pass goes down. -/
theorem startCommand_restore (v : Byte) (h : Claims.Ready s) :
    startCommand v .restore s = .next (Claims.stepPassed (stepRateUs (rateField v))
      { Claims.started v .restore s.fdc with
        verify := verifyField v, updateRegisters := true, trackRegister := 0xFF#8, dataRegister := 0x00#8
        lastStepDirUp := false }
      (Claims.acknowledged s)) := by
  have hoff : (0x00#8 : Byte) ≠ 0xFF#8 := by decide
  rw [startCommand_seeks v (.inl rfl) h, typeIStep_off_target (s := seekPrepared v .restore s) rfl hoff]
  rfl

theorem startCommand_seek_on_target (v : Byte) (h : Claims.Ready s) (heq : s.fdc.dataRegister = s.fdc.trackRegister) :
    startCommand v .seek s = .next (Claims.verifyChecked
      { Claims.started v .seek s.fdc with verify := verifyField v, updateRegisters := true } (Claims.acknowledged s)) := by
  rw [startCommand_seeks v (.inr rfl) h, typeIStep_on_target (s := seekPrepared v .seek s) rfl heq]
  exact congrArg _ (verifyChecked_withFdc .step
    { Claims.started v .seek s.fdc with verify := verifyField v, updateRegisters := true } _ (Claims.acknowledged s))

theorem startCommand_seek_off_target (v : Byte) (h : Claims.Ready s) (hne : s.fdc.dataRegister ≠ s.fdc.trackRegister) :
    startCommand v .seek s = .next (Claims.stepPassed (stepRateUs (rateField v))
      { Claims.started v .seek s.fdc with
        verify := verifyField v, updateRegisters := true
        lastStepDirUp := decide (s.fdc.trackRegister < s.fdc.dataRegister) }
      (Claims.acknowledged s)) := by
  rw [startCommand_seeks v (.inr rfl) h, typeIStep_off_target (s := seekPrepared v .seek s) rfl hne]
  exact congrArg _ (stepPassed_withFdc _ .step
    { Claims.started v .seek s.fdc with
      verify := verifyField v, updateRegisters := true
      lastStepDirUp := decide (s.fdc.trackRegister < s.fdc.dataRegister) } _ (Claims.acknowledged s))

/-! ## A search that begins, at once or after the delay (R262, R310) -/

/-- With the registers `f`, which select no other drive, side or density, the search begins as promised. It sets the
sequencer's state itself. -/
theorem delayOrSearch_withFdc (st st' : OpStatus) (hok : f.delay = false → Claims.HeadOk s)
    (hd : f.currentDrive = s.fdc.currentDrive := by rfl) (hs : f.sideOneSelected = s.fdc.sideOneSelected := by rfl)
    (hdd : f.doubleDensity = s.fdc.doubleDensity := by rfl) :
    delayOrSearch st { s with fdc := { f with opStatus := st' } } = .next (Claims.searchBegins f.delay st f s) := by
  unfold delayOrSearch Claims.searchBegins
  by_cases he : f.delay = true
  · rw [if_pos he, if_pos he]
    rfl
  · rw [if_neg he, if_neg he]
    exact waitBytes_withFdc (s := s) (f := { f with opStatus := st', indexCheckStartTick := Claims.indexStart s }) 1 st
      (hok (Bool.eq_false_of_not_eq_true he)) hd hs hdd

/-! ## ReadSector and WriteSector (R310, R330) -/

/-- The FDC after the start of a sector command and the decode of its byte. -/
def sectorDecoded (v : Byte) (c : Command) (f : Fdc) : Fdc :=
  { Claims.started v c f with
    delay := delayField v, sideSelectVerify := sideVerifyField v, sideOneExpected := sideOneField v
    multipleRecords := multipleField v, markSectorDeleted := c == .writeSector && deletedField v }

/-- The decode of a sector command's byte, field by field. -/
theorem sectorDecoded_byte (p : BitVec 3) (m sd e sv a : Bool) (c : Command) (f : Fdc) :
    let b : Byte :=
      p ++ BitVec.ofBool m ++ BitVec.ofBool sd ++ BitVec.ofBool e ++ BitVec.ofBool sv ++ BitVec.ofBool a
    sectorDecoded b c f =
      { Claims.started b c f with
        delay := e, sideSelectVerify := sv, sideOneExpected := sd, multipleRecords := m
        markSectorDeleted := c == .writeSector && a } := by
  intro b
  obtain ⟨he, hsv, hsd, hm, ha⟩ := sectorByte_fields p m sd e sv a
  rw [sectorDecoded, he, hsv, hsd, hm, ha]

/-- A sector command on an FDC that takes it begins at its state `Prepare`. -/
theorem startCommand_typeII (v : Byte) {c : Command} (hc : c = .readSector ∨ c = .writeSector) (h : Claims.Ready s) :
    startCommand v c s = typeIIPrepare (acceptCommand v c s) := by
  rw [startCommand_of_ready v c h]
  exact hc.elim (fdcAdvance_readSector_prepare · rfl) (fdcAdvance_writeSector_prepare · rfl)

/-- A sector command that meets no protected drive begins its search. -/
theorem startCommand_sector_searches (v : Byte) {c : Command} (hc : c = .readSector ∨ c = .writeSector ∧ driveWP s = false)
    (h : Claims.Ready s) (hok : delayField v = false → Claims.HeadOk s) :
    startCommand v c s =
      .next (Claims.searchBegins (delayField v) .seekingIDAM (sectorDecoded v c s.fdc) (Claims.acknowledged s)) := by
  have hfree : ¬ ((acceptCommand v c s).fdc.command = .writeSector ∧ driveWP (acceptCommand v c s) = true) := by
    rintro ⟨hw, hwp⟩
    obtain rfl | ⟨-, hno⟩ := hc
    · cases hw
    · exact absurd (hwp.symm.trans hno) nofun
  rw [startCommand_typeII v (hc.imp_right And.left) h, typeIIPrepare, if_neg hfree]
  exact delayOrSearch_withFdc (s := Claims.acknowledged s) (f := sectorDecoded v c s.fdc) .seekingIDAM .prepare hok

/-- A protected drive ends WriteSector in its first rule (R330, R449). -/
theorem startCommand_writeSector_protected (v : Byte) (h : Claims.Ready s) (hwp : driveWP s = true) :
    startCommand v .writeSector s = .next (Claims.terminated
      { sectorDecoded v .writeSector s.fdc with writeProtected := true } (Claims.acknowledged s)) := by
  rw [startCommand_typeII v (.inr rfl) h, typeIIPrepare, if_pos ⟨rfl, hwp⟩]
  rfl

/-! ## ReadAddress, ReadTrack and WriteTrack (R360, R370, R380) -/

theorem startCommand_readAddress (v : Byte) (h : Claims.Ready s) (hok : delayField v = false → Claims.HeadOk s) :
    startCommand v .readAddress s = .next (Claims.searchBegins (delayField v) .seekingIDAM
      { Claims.started v .readAddress s.fdc with delay := delayField v } (Claims.acknowledged s)) := by
  rw [startCommand_of_ready v _ h, fdcAdvance_readAddress_prepare rfl rfl]
  exact delayOrSearch_withFdc (s := Claims.acknowledged s)
    (f := { Claims.started v .readAddress s.fdc with delay := delayField v }) .seekingIDAM .prepare hok

theorem startCommand_readTrack (v : Byte) (h : Claims.Ready s) (hok : delayField v = false → Claims.HeadOk s) :
    startCommand v .readTrack s = .next (Claims.searchBegins (delayField v) .seekingIndexHole
      { Claims.started v .readTrack s.fdc with delay := delayField v } (Claims.acknowledged s)) := by
  rw [startCommand_of_ready v _ h, fdcAdvance_readTrack_prepare rfl rfl]
  exact delayOrSearch_withFdc (s := Claims.acknowledged s)
    (f := { Claims.started v .readTrack s.fdc with delay := delayField v }) .seekingIndexHole .prepare hok

/-- WriteTrack asks for its first byte before the index hole comes (D25). -/
theorem startCommand_writeTrack (v : Byte) (h : Claims.Ready s) (hwp : driveWP s = false)
    (hok : delayField v = false → Claims.HeadOk s) :
    startCommand v .writeTrack s = .next (Claims.searchBegins (delayField v) .seekingIndexHole
      { Claims.started v .writeTrack s.fdc with delay := delayField v, drq := true } (Claims.acknowledged s)) := by
  have hfree : ¬ driveWP (acceptCommand v .writeTrack s) = true := fun hw => absurd (hw.symm.trans hwp) nofun
  rw [startCommand_of_ready v _ h, fdcAdvance_writeTrack_prepare rfl rfl, writeTrackPrepare, if_neg hfree]
  exact delayOrSearch_withFdc (s := Claims.acknowledged s)
    (f := { Claims.started v .writeTrack s.fdc with delay := delayField v, drq := true }) .seekingIndexHole .prepare hok

/-- A protected drive ends WriteTrack in its first rule (R380, R449). -/
theorem startCommand_writeTrack_protected (v : Byte) (h : Claims.Ready s) (hwp : driveWP s = true) :
    startCommand v .writeTrack s = .next (Claims.terminated
      { Claims.started v .writeTrack s.fdc with delay := delayField v, writeProtected := true }
      (Claims.acknowledged s)) := by
  rw [startCommand_of_ready v _ h, fdcAdvance_writeTrack_prepare rfl rfl, writeTrackPrepare,
    if_pos (show driveWP (acceptCommand v .writeTrack s) = true from hwp)]
  rfl

end

/-! ## The statements -/

/-- Settles O6: the registers 0xFF and 0x00 put the target below the head. -/
theorem restoreStepsDown : Obligations.RestoreStepsDown := by
  intro h v r s hs
  obtain ⟨hv, hr⟩ := seekByte_fields 0b0000#4 h v r
  have hstart := startCommand_restore (encodeByte (.restore h v r)) hs
  rwa [encodeByte, hv, hr, stepRateUs_eq_stepUs] at hstart

/-- Settles O7: the data register is the target, and the pass goes by its comparison with the track register. -/
theorem seekStepsToTarget : Obligations.SeekStepsToTarget := by
  intro h v r s hs
  obtain ⟨hv, hr⟩ := seekByte_fields 0b0001#4 h v r
  refine ⟨fun heq => ?_, fun hne => ?_⟩
  · have hstart := startCommand_seek_on_target (encodeByte (.seek h v r)) hs heq
    rwa [encodeByte, hv] at hstart
  · have hstart := startCommand_seek_off_target (encodeByte (.seek h v r)) hs hne
    rwa [encodeByte, hv, hr, stepRateUs_eq_stepUs] at hstart

/-- Settles O9: both sector commands decode the same fields and begin the same search. -/
theorem sectorCommandsStart : Obligations.SectorCommandsStart := by
  intro m sd e c x s hs hok
  have hread := sectorByte_fields 0b100#3 m sd e c x
  have hwrite := sectorByte_fields 0b101#3 m sd e c x
  refine ⟨?_, fun hwp => ?_⟩
  · have hstart := startCommand_sector_searches (encodeByte (.rdsec m sd e c x)) (.inl rfl) hs
      (fun he => hok (hread.1.symm.trans he))
    rwa [encodeByte, hread.1, sectorDecoded_byte] at hstart
  · have hstart := startCommand_sector_searches (encodeByte (.wrsec m sd e c x)) (.inr ⟨rfl, hwp⟩) hs
      (fun he => hok (hwrite.1.symm.trans he))
    rwa [encodeByte, hwrite.1, sectorDecoded_byte] at hstart

/-- Settles O10: the first rule of both write commands looks at the drive before it does anything else. -/
theorem protectedDriveAbortsWrites : Obligations.ProtectedDriveAbortsWrites := by
  refine ⟨fun m sd e c a0 s d hs hd hp => ?_, fun x3 e x10 s d hs hd hp => ?_, fun s hn => ?_⟩
  · have hstart := startCommand_writeSector_protected (encodeByte (.wrsec m sd e c a0)) hs (driveWP_iff.mpr ⟨d, hd, hp⟩)
    rwa [encodeByte, sectorDecoded_byte] at hstart
  · have hstart := startCommand_writeTrack_protected (encodeByte (.wrtrk x3 e x10)) hs (driveWP_iff.mpr ⟨d, hd, hp⟩)
    rwa [encodeByte, typeIIIByte_delay] at hstart
  · rw [driveWP, curDrive, hn, Option.map_none]

/-- Settles O11: both commands take the delay flag and begin their search. -/
theorem typeThreeReadsStart : Obligations.TypeThreeReadsStart := by
  intro x3 e x10 s hs hok
  have haddr := startCommand_readAddress (encodeByte (.rdaddr x3 e x10)) hs
  have htrack := startCommand_readTrack (encodeByte (.rdtrk x3 e x10)) hs
  rw [encodeByte, typeIIIByte_delay] at haddr
  rw [encodeByte, typeIIIByte_delay] at htrack
  exact ⟨haddr hok, htrack hok⟩

/-- Settles O12: with no protected drive WriteTrack takes the delay flag, raises `drq` and begins its search. -/
theorem writeTrackStarts : Obligations.WriteTrackStarts := by
  intro x3 e x10 s hs hwp hok
  have hstart := startCommand_writeTrack (encodeByte (.wrtrk x3 e x10)) hs hwp
  rw [encodeByte, typeIIIByte_delay] at hstart
  exact hstart hok

end Sys2Proof.Machine
end

section
/-! SUPPORT. The frame of a command byte's write, said once: the registers of the FDC, the command request and `FdcNmi` are
what it may touch, and after them the selected head may take one step (42_fdc_ports_dispatch.md R230, R240, 43_fdc_type1.md
R287, R288, 46_fdc_type4.md R401). -/

namespace Sys2Proof.Machine

/-- The registers `g` agree with `f` where no command byte writes: the mode, the motor, the selection and the sector. -/
structure SelectionKept (f g : Fdc) : Prop where
  enabled : g.enabled = f.enabled
  motorOn : g.motorOn = f.motorOn
  currentDrive : g.currentDrive = f.currentDrive
  sideOneSelected : g.sideOneSelected = f.sideOneSelected
  doubleDensity : g.doubleDensity = f.doubleDensity
  sectorRegister : g.sectorRegister = f.sectorRegister

/-- `s` with the registers `g`, the command request `r` under the counter `n`, and the level `b` of `FdcNmi`. -/
def commandTouched (g : Fdc) (r : PulseReq) (n : Nat) (b : Bool) (s : State) : State :=
  { s with
    fdc := g, sched := { s.sched with command := r, nextSeq := n }, latches := { s.latches with fdcNmi := b } }

/-- `t` is `s` but for the FDC's registers, the command request and `FdcNmi`. -/
def CommandTouches (s t : State) : Prop := ∃ g r n b, SelectionKept s.fdc g ∧ t = commandTouched g r n b s

/-- `s` after one step of the selected head, moved or not (R287, R288). -/
def headStepped (up : Bool) (s : State) : State :=
  { s with
    drives := Claims.steppedDrives up s
    outputs := s.outputs ++ if Claims.headMoves up s = true then [.trackStep] else [] }

/-- `t` is `s` after what a command byte may touch, with at most one step of the head. -/
def CommandMoves (s t : State) : Prop := ∃ u, CommandTouches s u ∧ (t = u ∨ ∃ up, t = headStepped up u)

section

variable {s t u : State}

/-! ## What touches no more -/

theorem SelectionKept.refl (f : Fdc) : SelectionKept f f := ⟨rfl, rfl, rfl, rfl, rfl, rfl⟩

theorem SelectionKept.trans {f g k : Fdc} (a : SelectionKept f g) (b : SelectionKept g k) : SelectionKept f k where
  enabled := b.enabled.trans a.enabled
  motorOn := b.motorOn.trans a.motorOn
  currentDrive := b.currentDrive.trans a.currentDrive
  sideOneSelected := b.sideOneSelected.trans a.sideOneSelected
  doubleDensity := b.doubleDensity.trans a.doubleDensity
  sectorRegister := b.sectorRegister.trans a.sectorRegister

/-- A state that is written out as `s` with other registers, another command request and another `FdcNmi`. -/
theorem CommandTouches.of_eq
    (ht : t = commandTouched t.fdc t.sched.command t.sched.nextSeq t.latches.fdcNmi s := by rfl)
    (he : t.fdc.enabled = s.fdc.enabled := by rfl) (hm : t.fdc.motorOn = s.fdc.motorOn := by rfl)
    (hc : t.fdc.currentDrive = s.fdc.currentDrive := by rfl)
    (hs : t.fdc.sideOneSelected = s.fdc.sideOneSelected := by rfl)
    (hd : t.fdc.doubleDensity = s.fdc.doubleDensity := by rfl)
    (hr : t.fdc.sectorRegister = s.fdc.sectorRegister := by rfl) : CommandTouches s t :=
  ⟨_, _, _, _, ⟨he, hm, hc, hs, hd, hr⟩, ht⟩

theorem CommandTouches.trans (a : CommandTouches s u) (b : CommandTouches u t) : CommandTouches s t := by
  obtain ⟨g, _, _, _, hg, rfl⟩ := a
  obtain ⟨k, r, n, l, hk, rfl⟩ := b
  exact ⟨k, r, n, l, hg.trans hk, rfl⟩

theorem CommandTouches.moves (h : CommandTouches s t) : CommandMoves s t := ⟨t, h, .inl rfl⟩

theorem CommandMoves.after (a : CommandTouches s u) (b : CommandMoves u t) : CommandMoves s t := by
  obtain ⟨w, hw, ht⟩ := b
  exact ⟨w, a.trans hw, ht⟩

/-! ## The first rule of each command -/

theorem checkVerify_touches (s : State) : CommandTouches s (checkVerify s) := by
  unfold checkVerify
  split <;> exact .of_eq

/-- A pass of state `Step` is the one rule that moves the head. -/
theorem stepPass_moves (s : State) : CommandMoves s (stepPass s) := by
  rw [stepPass_eq_stepPassed]
  exact ⟨Claims.timeWait (stepRate s) _ { s.fdc with trackRegister := _ } s, .of_eq, .inr ⟨s.fdc.lastStepDirUp, rfl⟩⟩

theorem typeIStep_moves (s : State) : CommandMoves s (typeIStep s) := by
  unfold typeIStep
  split_ifs
  · exact .after .of_eq (checkVerify_touches _).moves
  · exact .after .of_eq (stepPass_moves _)
  · exact stepPass_moves s

theorem typeIPrepare_moves (s : State) : CommandMoves s (typeIPrepare s) := .after .of_eq (typeIStep_moves _)

theorem delayOrSearch_touches {st : OpStatus} (h : delayOrSearch st s = .next t) : CommandTouches s t := by
  obtain ⟨-, rfl⟩ | ⟨-, rfl⟩ := delayOrSearch_next h <;> exact .of_eq

theorem typeIIPrepare_touches (h : typeIIPrepare s = .next t) : CommandTouches s t := by
  unfold typeIIPrepare at h
  split at h
  · cases h
    exact .of_eq
  · exact CommandTouches.trans .of_eq (delayOrSearch_touches h)

theorem writeTrackPrepare_touches (h : writeTrackPrepare s = .next t) : CommandTouches s t := by
  unfold writeTrackPrepare at h
  split at h
  · cases h
    exact .of_eq
  · exact CommandTouches.trans .of_eq (delayOrSearch_touches h)

/-- A Type III command without a write begins with the delay flag and the search. -/
theorem typeIIIDecode_search_touches {st : OpStatus} (h : delayOrSearch st (typeIIIDecode s) = .next t) :
    CommandTouches s t :=
  CommandTouches.trans .of_eq (delayOrSearch_touches h)

/-- State `Prepare` of whatever command. -/
theorem fdcAdvance_prepare_moves (ho : s.fdc.opStatus = .prepare) (h : fdcAdvance s = .next t) : CommandMoves s t := by
  cases hc : s.fdc.command with
  | restore =>
    cases (fdcAdvance_restore_prepare hc ho).symm.trans h
    exact typeIPrepare_moves s
  | seek =>
    cases (fdcAdvance_seek_prepare hc ho).symm.trans h
    exact typeIPrepare_moves s
  | step =>
    cases (fdcAdvance_step_prepare hc ho).symm.trans h
    exact typeIPrepare_moves s
  | readSector => exact (typeIIPrepare_touches ((fdcAdvance_readSector_prepare hc ho).symm.trans h)).moves
  | writeSector => exact (typeIIPrepare_touches ((fdcAdvance_writeSector_prepare hc ho).symm.trans h)).moves
  | readAddress => exact (typeIIIDecode_search_touches ((fdcAdvance_readAddress_prepare hc ho).symm.trans h)).moves
  | readTrack => exact (typeIIIDecode_search_touches ((fdcAdvance_readTrack_prepare hc ho).symm.trans h)).moves
  | writeTrack => exact (writeTrackPrepare_touches ((fdcAdvance_writeTrack_prepare hc ho).symm.trans h)).moves
  | reset | forceInterrupt | forceInterruptImmediate =>
    simp only [fdcAdvance, ho, commandAdvance, hc, unreachableState, reduceCtorEq] at h

/-- What the write of any command byte does where it answers a next state. -/
theorem exec_moves {i : Instr} (h : exec i s = .next t) : CommandMoves s t := by
  obtain rfl | ⟨-, v, c, h⟩ | ⟨v, c, rfl⟩ | ⟨v, c, rfl⟩ := exec_next h
  · exact CommandTouches.moves .of_eq
  · exact .after .of_eq (fdcAdvance_prepare_moves (s := acceptCommand v c s) rfl h)
  · exact CommandTouches.moves .of_eq
  · exact CommandTouches.moves .of_eq

/-! ## The drives under one step of the head -/

/-- Drive `d` under a command byte: its disk and its write-protect stand, an unselected one stands whole, and the head is at
most one track away. -/
def DriveFramed (s : State) (ds : Drives) (d : DriveId) : Prop :=
  (ds.get d).floppy = (s.drives.get d).floppy ∧
    (ds.get d).writeProtected = (s.drives.get d).writeProtected ∧
    (s.fdc.currentDrive ≠ some d → ds.get d = s.drives.get d) ∧
    (ds.get d).physicalTrack ≤ (s.drives.get d).physicalTrack + 1 ∧
    (s.drives.get d).physicalTrack ≤ (ds.get d).physicalTrack + 1

theorem driveFramed_same (s : State) (d : DriveId) : DriveFramed s s.drives d :=
  ⟨rfl, rfl, fun _ => rfl, Nat.le_succ _, Nat.le_succ _⟩

theorem driveFramed_stepped (up : Bool) (s : State) (d : DriveId) : DriveFramed s (Claims.steppedDrives up s) d := by
  by_cases hm : Claims.headMoves up s = true
  · cases hd : s.fdc.currentDrive with
    | none => simp [Claims.headMoves, hd] at hm
    | some k =>
      rw [steppedDrives_of_selected hd]
      by_cases hk : d = k
      · subst hk
        rw [DriveFramed, Drives.get_set_same]
        refine ⟨rfl, rfl, fun hn => absurd hd hn, ?_, ?_⟩
        · dsimp only
          split_ifs <;> omega
        · dsimp only
          split_ifs <;> omega
      · rw [DriveFramed, Drives.get_set_other _ _ hk]
        exact driveFramed_same s d
  · rw [steppedDrives_of_still hm]
    exact driveFramed_same s d

end

/-- Settles O15: a command byte touches the FDC's registers, its request and `FdcNmi`, and steps the head at most once. -/
theorem commandFrame : Obligations.CommandFrame := by
  intro i s t h
  obtain ⟨u, ⟨g, r, n, b, hg, rfl⟩, ht⟩ := exec_moves h
  have hlatch (l : Latch) (hl : l ≠ .fdcNmi) : (commandTouched g r n b s).latches.get l = s.latches.get l := by
    cases l with
    | fdcNmi => exact absurd rfl hl
    | cassetteRisingEdge | cassetteFallingEdge | fdcMotorOffNmi => rfl
  obtain rfl | ⟨up, rfl⟩ := ht
  · exact ⟨rfl, rfl, rfl, rfl, rfl, rfl, rfl, rfl, hlatch, hg.enabled, hg.motorOn, hg.currentDrive, hg.sideOneSelected,
      hg.doubleDensity, hg.sectorRegister, driveFramed_same s, .inl rfl⟩
  · have hdrive (d : DriveId) : DriveFramed s (headStepped up (commandTouched g r n b s)).drives d := by
      have hu := driveFramed_stepped up (commandTouched g r n b s) d
      unfold DriveFramed at hu ⊢
      rwa [show (commandTouched g r n b s).fdc.currentDrive = s.fdc.currentDrive from hg.currentDrive] at hu
    have hout : (headStepped up (commandTouched g r n b s)).outputs = s.outputs ∨
        (headStepped up (commandTouched g r n b s)).outputs = s.outputs ++ [.trackStep] := by
      unfold headStepped
      split_ifs
      · exact .inr rfl
      · exact .inl (List.append_nil _)
    exact ⟨rfl, rfl, rfl, rfl, rfl, rfl, rfl, rfl, hlatch, hg.enabled, hg.motorOn, hg.currentDrive, hg.sideOneSelected,
      hg.doubleDensity, hg.sectorRegister, hdrive, hout⟩

end Sys2Proof.Machine
end

section
/-! SUPPORT. The header search that Type I verify, Type II and ReadAddress share, by what the rules promise of it: the look
for an IDAM, the first five header bytes, and the sixth where it ends the search (42_fdc_ports_dispatch.md R260, R261,
43_fdc_type1.md R292, 45_fdc_type3.md R362, R363). -/

namespace Sys2Proof.Machine

section

variable {s : State} {g : Fdc}

/-! ## The commands that search (R241) -/

theorem isTypeI_iff (c : Command) : Claims.isTypeI c = true ↔ c = .restore ∨ c = .seek ∨ c = .step := by
  cases c <;> decide

/-- State `SeekingIDAM` is the same rule for all of them. -/
theorem fdcAdvance_seekingIDAM (hc : Claims.searches s.fdc.command = true) (ho : s.fdc.opStatus = .seekingIDAM) :
    fdcAdvance s = seekingIDAM s := by
  cases hcmd : s.fdc.command with
  | restore => exact fdcAdvance_restore_seekingIDAM hcmd ho
  | seek => exact fdcAdvance_seek_seekingIDAM hcmd ho
  | step => exact fdcAdvance_step_seekingIDAM hcmd ho
  | readSector => exact fdcAdvance_readSector_seekingIDAM hcmd ho
  | writeSector => exact fdcAdvance_writeSector_seekingIDAM hcmd ho
  | readAddress => exact fdcAdvance_readAddress_seekingIDAM hcmd ho
  | readTrack | writeTrack | reset | forceInterrupt | forceInterruptImmediate =>
    rw [hcmd] at hc
    cases hc

theorem fdcAdvance_typeI_readingAddressData (hc : Claims.isTypeI s.fdc.command = true)
    (ho : s.fdc.opStatus = .readingAddressData) : fdcAdvance s = readingAddressData verifyTrack s := by
  obtain hcmd | hcmd | hcmd := (isTypeI_iff _).mp hc
  · exact fdcAdvance_restore_readingAddressData hcmd ho
  · exact fdcAdvance_seek_readingAddressData hcmd ho
  · exact fdcAdvance_step_readingAddressData hcmd ho

/-- Every search but that of ReadAddress reads its header without offering it to the CPU. -/
theorem searches_cases {c : Command} (h : Claims.searches c = true) (hr : c ≠ .readAddress) :
    Claims.isTypeI c = true ∨ c = .readSector ∨ c = .writeSector := by
  cases c with
  | readAddress => exact absurd rfl hr
  | restore | seek | step => exact .inl rfl
  | readSector => exact .inr (.inl rfl)
  | writeSector => exact .inr (.inr rfl)
  | readTrack | writeTrack | reset | forceInterrupt | forceInterruptImmediate => cases h

theorem fdcAdvance_quiet_readingAddressData (hc : Claims.searches s.fdc.command = true)
    (hr : s.fdc.command ≠ .readAddress) (ho : s.fdc.opStatus = .readingAddressData) :
    ∃ complete, fdcAdvance s = readingAddressData complete s := by
  obtain hI | hII := searches_cases hc hr
  · exact ⟨verifyTrack, fdcAdvance_typeI_readingAddressData hI ho⟩
  · exact ⟨typeIIHeader, fdcAdvance_typeII_readingAddressData hII ho⟩

/-! ## State `SeekingIDAM` (R260) -/

/-- Where the head can address the track, a rule behind the head check runs. -/
theorem withHead_of_headOk (f : State → Host.Outcome State Fault Refusal) (h : Claims.HeadOk s) : withHead f s = f s :=
  withHead_stops (trackDataIndex_lt h.1) ((Bool.eq_false_or_eq_true s.fdc.doubleDensity).imp_right h.2)

theorem hasIdam_iff (s : State) : hasIdam s (trackDataIndex s) = true ↔ Claims.IdamUnderHead s := by
  unfold hasIdam Claims.IdamUnderHead
  cases boundTrack s <;> simp

theorem seekingIDAM_gives_up (h : 5 ≤ indexesFound s) :
    seekingIDAM s = .next (Claims.terminated { s.fdc with seekError := true } s) := if_pos h

/-- Before the fifth revolution the byte under the head decides. -/
theorem seekingIDAM_looks (h : indexesFound s < 5) (hok : Claims.HeadOk s) :
    seekingIDAM s = if hasIdam s (trackDataIndex s) = true then takeIdam s else waitBytes 1 .seekingIDAM s := by
  have hsearching : ¬ Config.seekErrorRevs ≤ indexesFound s := Nat.not_le.mpr h
  rw [seekingIDAM, if_neg hsearching, withHead_of_headOk _ hok]

/-- An IDAM lies on a bound track, whose read takes no draw. -/
theorem afterTrackRead_of_idam (h : Claims.IdamUnderHead s) : afterTrackRead s = s := by
  obtain ⟨tr, htr, -⟩ := h
  rw [afterTrackRead, htr]

/-- The IDAM under the head starts the header with its CRC (47_crc.md R426). -/
theorem takeIdam_of_headOk (hok : Claims.HeadOk s) (hi : Claims.IdamUnderHead s) :
    takeIdam s = .next (Claims.byteWait 1 .readingAddressData
      { s.fdc with crc := crcByte (crcPreset s.fdc.doubleDensity) (Claims.headByte s), readAddressIndex := 0 } s) := by
  rw [takeIdam, afterTrackRead_of_idam hi, trackByte_eq_headByte]
  exact waitBytes_withFdc (s := s) 1 .readingAddressData hok

/-! ## The first five header bytes (R261, D17) -/

theorem AddressData.put_of_lt_five (a : AddressData) (b : Byte) {k : Nat} (h : k < 5) :
    a.put k b =
      { track := if k = 0 then b else a.track, side := if k = 1 then b else a.side
        sector := if k = 2 then b else a.sector, size := if k = 3 then b else a.size
        crcHi := if k = 4 then b else a.crcHi, crcLo := a.crcLo } := by
  match k, h with
  | 0, _ | 1, _ | 2, _ | 3, _ | 4, _ => rfl

/-- The CRC is captured with the fourth byte, which it covers. -/
theorem capturedCrc_eq (k : Nat) (b : Byte) (c d : Crc16) :
    (if k = 3 then headerCrc k b c else d) = if k = 3 then crcByte c b else d := by
  split
  · rw [headerCrc, if_pos (by omega)]
  · rfl

theorem storeHeaderByte_of_lt_five (b : Byte) (h : s.fdc.readAddressIndex < 5) :
    storeHeaderByte b s = { s with fdc := Claims.headerStored s.fdc.readAddressIndex b s.fdc } := by
  rw [storeHeaderByte, AddressData.put_of_lt_five _ b h, capturedCrc_eq]
  rfl

/-- One of the first five bytes is stored, and the next one is waited for, with whatever registers the byte came. -/
theorem headerByte_of_lt_five (b : Byte) (complete : State → Host.Outcome State Fault Refusal) (hok : Claims.HeadOk s)
    (h : g.readAddressIndex < 5) (hd : g.currentDrive = s.fdc.currentDrive := by rfl)
    (hs : g.sideOneSelected = s.fdc.sideOneSelected := by rfl)
    (hdd : g.doubleDensity = s.fdc.doubleDensity := by rfl) :
    headerByte b complete { s with fdc := g } =
      .next (Claims.byteWait 1 .readingAddressData (Claims.headerStored g.readAddressIndex b g) s) := by
  have hnot : ¬ g.readAddressIndex + 1 = 6 := by omega
  rw [headerByte, if_neg hnot, storeHeaderByte_of_lt_five (s := { s with fdc := g }) b h]
  exact waitBytes_withFdc (s := s) (f := Claims.headerStored g.readAddressIndex b g) 1 .readingAddressData hok hd hs hdd

/-- ReadAddress offers each header byte before it stores it (R362). -/
theorem readAddressByte_of_headOk (hok : Claims.HeadOk s) :
    readAddressByte s = headerByte (Claims.headByte s) readAddressHeader
      { Claims.counted s with fdc := Claims.offered (Claims.headByte s) s.fdc } := by
  rw [readAddressByte, withHead_of_headOk _ hok, afterTrackRead_eq_counted, trackByte_eq_headByte]
  rfl

/-! ## The sixth header byte (R292, R363) -/

theorem verifyTrack_matches (h : s.fdc.readAddressData.track = s.fdc.trackRegister) :
    verifyTrack s = .next (terminate s) := if_pos h

theorem verifyTrack_skips (h : s.fdc.readAddressData.track ≠ s.fdc.trackRegister) :
    verifyTrack s = waitBytes 1 .seekingIDAM s := if_neg h

/-- A Type I verify decides on the complete header (R292). -/
theorem fdcAdvance_typeI_sixth (hc : Claims.isTypeI s.fdc.command = true) (ho : s.fdc.opStatus = .readingAddressData)
    (hok : Claims.HeadOk s) (hidx : s.fdc.readAddressIndex = 5) :
    fdcAdvance s =
      verifyTrack { Claims.counted s with fdc := Claims.headerComplete (Claims.headByte s) s.fdc } := by
  rw [fdcAdvance_typeI_readingAddressData hc ho, readingAddressData_of_headOk _ hok]
  exact headerByte_sixth _ _ hidx

end

/-! ## The statements -/

/-- Settles O19: the revolutions come first, then the mark under the head. -/
theorem idamSearch : Obligations.IdamSearch := by
  intro s hc ho
  rw [fdcAdvance_seekingIDAM hc ho]
  refine ⟨seekingIDAM_gives_up, fun h5 hok hi => ?_, fun h5 hok hi => ?_⟩
  · rw [seekingIDAM_looks h5 hok, if_pos ((hasIdam_iff s).mpr hi)]
    exact takeIdam_of_headOk hok hi
  · rw [seekingIDAM_looks h5 hok, if_neg (mt (hasIdam_iff s).mp hi)]
    exact waitBytes_withFdc (s := s) (f := s.fdc) 1 .seekingIDAM hok

/-- Settles O20: ReadAddress stores the byte into the registers it was offered with, the others into theirs. -/
theorem headerBytesStored : Obligations.HeaderBytesStored := by
  intro s hc ho hok hidx
  by_cases hr : s.fdc.command = .readAddress
  · rw [if_pos hr, fdcAdvance_readAddress_readingAddressData hr ho, readAddressByte_of_headOk hok]
    exact headerByte_of_lt_five (g := Claims.offered (Claims.headByte s) s.fdc) _ _ (headOk_counted hok) hidx
  · obtain ⟨complete, hrun⟩ := fdcAdvance_quiet_readingAddressData hc hr ho
    rw [if_neg hr, hrun, readingAddressData_of_headOk _ hok]
    exact headerByte_of_lt_five (s := Claims.counted s) (g := s.fdc) _ _ (headOk_counted hok) hidx

/-- Settles O22: the sixth byte completes the header; a verify compares its track, ReadAddress takes it over and ends. -/
theorem verifyAndReadAddressEnd : Obligations.VerifyAndReadAddressEnd := by
  intro s ho hok hidx
  refine ⟨fun hc hmatch => ?_, fun hc hother => ?_, fun hc => ?_⟩
  · rw [fdcAdvance_typeI_sixth hc ho hok hidx, verifyTrack_matches (by exact hmatch)]
    rfl
  · rw [fdcAdvance_typeI_sixth hc ho hok hidx, verifyTrack_skips (by exact hother)]
    exact waitBytes_withFdc (s := Claims.counted s) 1 .seekingIDAM (headOk_counted hok)
  · rw [fdcAdvance_readAddress_readingAddressData hc ho, readAddressByte_of_headOk hok, headerByte_sixth _ _ (by exact hidx)]
    rfl

end Sys2Proof.Machine
end

section
/-! SUPPORT. The read of the data port (42_fdc_ports_dispatch.md R236). -/

namespace Sys2Proof.Machine

theorem portIn_data (s : State) :
    portIn 0xF3#8 s = fdcRead 0xF3#8 s.fdc.dataRegister (fun s => { s with fdc.drq := false }) s := rfl

/-- Settles O40: the read is a register access of the FDC that takes the byte away. -/
theorem dataPortRead : Obligations.DataPortRead := by
  intro s
  rw [portIn_data]
  exact ⟨fun h => fdcRead_enabled _ _ _ h, fun h => fdcRead_disabled _ _ _ h⟩

end Sys2Proof.Machine
end

section
/-! SUPPORT. The states `Step` and `CheckVerify` of the Type I commands as the firings of the sequencer run them
(42_fdc_ports_dispatch.md R241, 43_fdc_type1.md R285, R290). -/

namespace Sys2Proof.Machine

section

variable {s : State}

/-- The step rate is the one of the low two bits of the command byte (R91). -/
theorem stepRate_eq_stepUs (s : State) : stepRate s = Claims.stepUs (s.fdc.commandRegister.extractLsb' 0 2) :=
  stepRateUs_eq_stepUs _

/-- Restore and Seek are the Type I commands with a target. -/
theorem seeks_of_typeI_of_ne_step {c : Command} (hc : Claims.isTypeI c = true) (hne : c ≠ .step) : c.seeks = true := by
  obtain rfl | rfl | rfl := (isTypeI_iff c).mp hc
  · rfl
  · rfl
  · exact absurd rfl hne

theorem fdcAdvance_typeI_step (hc : Claims.isTypeI s.fdc.command = true) (ho : s.fdc.opStatus = .step) :
    fdcAdvance s = .next (typeIStep s) := by
  obtain hr | hk | hs := (isTypeI_iff _).mp hc
  · exact fdcAdvance_restore_step hr ho
  · exact fdcAdvance_seek_step hk ho
  · exact fdcAdvance_step_step hs ho

theorem fdcAdvance_typeI_checkVerify (hc : Claims.isTypeI s.fdc.command = true) (ho : s.fdc.opStatus = .checkVerify) :
    fdcAdvance s = .next (checkVerify s) := by
  obtain hr | hk | hs := (isTypeI_iff _).mp hc
  · exact fdcAdvance_restore_checkVerify hr ho
  · exact fdcAdvance_seek_checkVerify hk ho
  · exact fdcAdvance_step_checkVerify hs ho

end

/-- Settles O17: a seeking command compares its registers first, Step makes its pass at once, and the verify choice is the
promised one. -/
theorem stepStatePasses : Obligations.StepStatePasses := by
  refine ⟨fun s ho hc => ?_, fun s ho hc => ?_⟩
  · rw [fdcAdvance_typeI_step hc ho, ← stepRate_eq_stepUs]
    refine ⟨fun hne heq => ?_, fun hne hoff => ?_, fun hs => ?_⟩
    · rw [typeIStep_on_target (seeks_of_typeI_of_ne_step hc hne) heq]
    · rw [typeIStep_off_target (seeks_of_typeI_of_ne_step hc hne) hoff]
    · have hseeks : s.fdc.command.seeks = false := by rw [hs]; rfl
      rw [typeIStep_of_not_seeks hseeks, stepPass_eq_stepPassed]
  · rw [fdcAdvance_typeI_checkVerify hc ho, checkVerify_eq_verifyChecked]

end Sys2Proof.Machine
end

section
/-! SUPPORT. One logical byte written under the head, by what the rules promise of it: the tracks it leaves, and the
byte wait after it (20_memory.md R68, R69, 40_clock_scheduler.md R152). -/

namespace Sys2Proof.Machine

/-- `s` after `TrackWrite(TrackDataIndex, v, m)` (R68). -/
def headWritten (v : Byte) (m : Bool) (s : State) : State :=
  { s with drives := (trackWrite (trackDataIndex s) v m s).drives }

section

variable {s : State} {f : Fdc}

/-! ## The tracks after the write -/

theorem trackWrite_eq_headWritten (v : Byte) (m : Bool) (s : State) :
    trackWrite (trackDataIndex s) v m s = headWritten v m s := trackWrite_drives _ v m s

theorem trackAt_headWritten (v : Byte) (m : Bool) (s : State) :
    trackAt (headWritten v m s) = (writtenView v m s).tracks := by
  rw [← trackWrite_eq_headWritten]
  exact congrArg MediaView.tracks (trackWrite_media v m s)

/-- The heads and the write-protects of all drives are as before. -/
theorem headWritten_drive (v : Byte) (m : Bool) (s : State) (d : DriveId) :
    ((headWritten v m s).drives.get d).physicalTrack = (s.drives.get d).physicalTrack ∧
      ((headWritten v m s).drives.get d).writeProtected = (s.drives.get d).writeProtected := by
  rw [headWritten, trackWrite_get]
  split
  · exact ⟨DriveState.writeTrack_physicalTrack .., DriveState.writeTrack_writeProtected ..⟩
  · exact ⟨rfl, rfl⟩

/-- A track of a well-formed disk is well formed. -/
theorem trackAt_wf (h : MediaInv s) {d : DriveId} {c : Nat} {sd : Bool} {tr : Track} (ht : trackAt s d c sd = some tr) :
    tr.wf = true := by
  have hd := h d
  unfold trackAt at ht
  cases hf : (s.drives.get d).floppy with
  | none => simp [hf] at ht
  | some img =>
    rw [hf] at hd ht
    exact findTrack_wf hd ht

/-- In single density the second position of the byte under the head is another one than the first. -/
theorem secondPosition_ne (h : Claims.HeadOk s) (hdd : s.fdc.doubleDensity = false) :
    (trackDataIndex s + 1) % trackLen s ≠ trackDataIndex s := by
  have hidx := trackDataIndex_lt h.1
  have heven := h.2 hdd
  obtain hlt | heq : trackDataIndex s + 1 < trackLen s ∨ trackDataIndex s + 1 = trackLen s := by omega
  · rw [Nat.mod_eq_of_lt hlt]
    omega
  · rw [heq, Nat.mod_self]
    omega

/-- The place under the head lies on the bound track, which carries the logical byte after the write. -/
theorem trackAt_headWritten_of_underHead {d : DriveId} {c : Nat} {sd : Bool} {i : Nat} (v : Byte) (m : Bool)
    (h : Claims.underHead s d c sd i) :
    ∃ tr, trackAt s d c sd = some tr ∧ trackLen s = tr.data.size ∧
      trackAt (headWritten v m s) d c sd = some (tr.putLogical s.fdc.doubleDensity (trackDataIndex s) v m) := by
  obtain ⟨hd, rfl, rfl, hb, -⟩ := h
  obtain ⟨tr, htr⟩ := Option.isSome_iff_exists.mp hb
  have hat := (boundTrack_trackAt hd).symm.trans htr
  refine ⟨tr, hat, trackLen_of_bound htr, ?_⟩
  rw [trackAt_headWritten]
  dsimp only [writtenView]
  rw [if_pos ⟨hd, rfl, rfl⟩, hat, Option.map_some]

/-- The byte and its mark read back under the head (R68, R69). -/
theorem headWritten_underHead {d : DriveId} {c : Nat} {sd : Bool} {i : Nat} (v : Byte) (m : Bool) (hm : MediaInv s)
    (hok : Claims.HeadOk s) (h : Claims.underHead s d c sd i) :
    mediaByte (headWritten v m s) d c sd i = some v ∧
      mediaMark (headWritten v m s) d c sd i = (m && i == trackDataIndex s) := by
  obtain ⟨tr, hat, hlen, hafter⟩ := trackAt_headWritten_of_underHead v m h
  obtain ⟨-, -, -, -, hi⟩ := h
  have hwf := trackAt_wf hm hat
  have hidx := trackDataIndex_lt hok.1
  have hne := secondPosition_ne hok
  rw [hlen] at hi hidx hne
  simp only [mediaByte, mediaMark, hafter]
  refine ⟨(Track.putLogical_read? _ v m i hwf hidx).trans (if_pos hi), ?_⟩
  rw [Track.putLogical_mark _ v m i hwf hidx]
  obtain rfl | ⟨hdd, rfl⟩ := hi
  · rw [if_neg fun hsecond => hne hsecond.1 hsecond.2.symm, if_pos rfl, beq_self_eq_true, Bool.and_true]
  · rw [if_pos ⟨hdd, rfl⟩, beq_false_of_ne (hne hdd), Bool.and_false]

/-- A write under the head is the promised one. -/
theorem headWritten_wroteUnderHead (v : Byte) (m : Bool) (hm : MediaInv s) (hok : Claims.HeadOk s) :
    Claims.WroteUnderHead v m s (headWritten v m s).drives := by
  refine ⟨headWritten_drive v m s, fun d c sd i => ⟨headWritten_underHead v m hm hok, fun hout => ?_⟩⟩
  have hsame := mt (underHead_of_written (trackAt_headWritten v m s)) hout
  obtain ⟨hbyte, hmark⟩ := not_or.mp hsame
  exact ⟨not_not.mp hbyte, not_not.mp hmark⟩

/-! ## The rotation after the write -/

theorem trackLen_headWritten (v : Byte) (m : Bool) (s : State) : trackLen (headWritten v m s) = trackLen s := by
  rw [← trackWrite_eq_headWritten, trackLen_trackWrite]

theorem headOk_headWritten (v : Byte) (m : Bool) (h : Claims.HeadOk s) : Claims.HeadOk (headWritten v m s) := by
  rwa [Claims.HeadOk, trackLen_headWritten]

/-- A media write leaves the head and every wait as they are. -/
theorem byteWait_headWritten (n : Nat) (st : OpStatus) (f : Fdc) (v : Byte) (m : Bool) (s : State) :
    Claims.byteWait n st f (headWritten v m s) =
      { Claims.byteWait n st f s with drives := (headWritten v m s).drives } := by
  have hidx : trackDataIndex (headWritten v m s) = trackDataIndex s := by
    rw [trackDataIndex, trackLen_headWritten]
    rfl
  have htarget : byteWaitTarget n (headWritten v m s) = byteWaitTarget n s := by
    rw [byteWaitTarget, hidx, trackLen_headWritten]
    rfl
  have hdelay (k : Nat) : byteWaitDelay k (headWritten v m s) = byteWaitDelay k s := by
    rw [byteWaitDelay, cellAngle, trackLen_headWritten]
    rfl
  rw [Claims.byteWait, htarget, hdelay]
  rfl

/-- Registers that select no other drive, side or density leave the head's index as it is. -/
theorem trackDataIndex_withFdc (hd : f.currentDrive = s.fdc.currentDrive)
    (hs : f.sideOneSelected = s.fdc.sideOneSelected) (hdd : f.doubleDensity = s.fdc.doubleDensity) :
    trackDataIndex { s with fdc := f } = trackDataIndex s := by
  rw [trackDataIndex, trackLen_withFdc hd hs hdd]
  rfl

/-- With such registers the write goes to the same place. -/
theorem trackWrite_withFdc (v : Byte) (m : Bool) (hd : f.currentDrive = s.fdc.currentDrive := by rfl)
    (hs : f.sideOneSelected = s.fdc.sideOneSelected := by rfl)
    (hdd : f.doubleDensity = s.fdc.doubleDensity := by rfl) :
    trackWrite (trackDataIndex s) v m { s with fdc := f } = { headWritten v m s with fdc := f } := by
  rw [trackWrite_drives, headWritten]
  simp only [trackWrite, mapCurDrive, hd, hs, hdd]
  cases s.fdc.currentDrive <;> rfl

/-- A byte wait after the write is the promised one, with the drives as written. -/
theorem waitBytes_headWritten (n : Nat) (st : OpStatus) (v : Byte) (m : Bool) (h : Claims.HeadOk s)
    (hd : f.currentDrive = s.fdc.currentDrive := by rfl) (hs : f.sideOneSelected = s.fdc.sideOneSelected := by rfl)
    (hdd : f.doubleDensity = s.fdc.doubleDensity := by rfl) :
    waitBytes n st { headWritten v m s with fdc := f } =
      .next { Claims.byteWait n st f s with drives := (headWritten v m s).drives } := by
  rw [waitBytes_withFdc (s := headWritten v m s) n st (headOk_headWritten v m h) hd hs hdd, byteWait_headWritten]

end

end Sys2Proof.Machine
end

section
/-! SUPPORT. The states of ReadSector and WriteSector after the header, by what the rules promise of them
(44_fdc_type2.md R311, R320 to R339). -/

namespace Sys2Proof.Machine

section

variable {s : State} {f : Fdc}

/-! ## What the two commands share (R311, R328, R339) -/

/-- A search that begins is the promised one (42_fdc_ports_dispatch.md R262). -/
theorem startSearch_of_headOk (st : OpStatus) (hok : Claims.HeadOk s) :
    startSearch st s = .next (Claims.byteWait 1 st { s.fdc with indexCheckStartTick := Claims.indexStart s } s) :=
  waitBytes_withFdc (s := s) 1 st hok

/-- A record that is not the last goes on to the next sector number. -/
theorem endRecord_continues (hm : s.fdc.multipleRecords = true) :
    endRecord s = waitBytes 1 .seekingIDAM { s with fdc.sectorRegister := s.fdc.sectorRegister + 1#8 } := if_pos hm

theorem endRecord_ends (hm : s.fdc.multipleRecords = false) : endRecord s = .next (terminate s) :=
  if_neg (Bool.eq_false_iff.mp hm)

/-! ## ReadSector (R320 to R327) -/

theorem seekingDAMByte_mark {b : Byte} (h : b = 0xFB#8 ∨ b = 0xF8#8) :
    seekingDAMByte b s = waitBytes 1 .readingData
      { startCrc b s with fdc.sectorDeleted := b == 0xF8#8, fdc.bytesRead := 0 } := if_pos h

/-- A byte that is no mark goes on to the next, or back to the header search at the end of the window (D19). -/
theorem seekingDAMByte_other {b : Byte} (hb : b ≠ 0xFB#8) (hb' : b ≠ 0xF8#8) :
    seekingDAMByte b s =
      if damWindow s ≤ s.fdc.damBytesChecked then waitBytes 1 .seekingIDAM s else waitBytes 1 .seekingDAM s :=
  if_neg (not_or.mpr ⟨hb, hb'⟩)

theorem seekingDAM_of_headOk (hok : Claims.HeadOk s) :
    seekingDAM s = seekingDAMByte (Claims.headByte s)
      { Claims.counted s with fdc.damBytesChecked := s.fdc.damBytesChecked + 1 } := by
  rw [seekingDAM, withHead_of_headOk _ hok, afterTrackRead_eq_counted, trackByte_eq_headByte]

theorem readSectorData_of_headOk (hok : Claims.HeadOk s) :
    readSectorData s = afterDataByte (deliverByte (Claims.headByte s) (Claims.counted s)) := by
  rw [readSectorData, withHead_of_headOk _ hok, afterTrackRead_eq_counted, trackByte_eq_headByte]

theorem afterDataByte_last (h : s.fdc.bytesRead = s.fdc.sectorLength) :
    afterDataByte s = waitBytes 1 .readCRCHigh { s with fdc.crcCalc := s.fdc.crc } := if_pos h

theorem afterDataByte_goesOn (h : s.fdc.bytesRead ≠ s.fdc.sectorLength) :
    afterDataByte s = waitBytes 1 .readingData s := if_neg h

theorem readCRCHigh_of_headOk (hok : Claims.HeadOk s) :
    readCRCHigh s =
      .next (Claims.byteWait 1 .readCRCLow { s.fdc with crcHigh := Claims.headByte s } (Claims.counted s)) := by
  rw [readCRCHigh, withHead_of_headOk _ hok, afterTrackRead_eq_counted, trackByte_eq_headByte]
  exact waitBytes_withFdc (s := Claims.counted s) 1 .readCRCLow (headOk_counted hok)

theorem readCRCLow_of_headOk (hok : Claims.HeadOk s) :
    readCRCLow s = checkDataCrc { Claims.counted s with fdc := { s.fdc with crcLow := Claims.headByte s } } := by
  rw [readCRCLow, withHead_of_headOk _ hok, afterTrackRead_eq_counted, trackByte_eq_headByte]
  rfl

theorem checkDataCrc_bad (h : ¬ crcMatches s = true) :
    checkDataCrc s = .next (terminate { s with fdc.crcError := true }) := by
  simp [checkDataCrc, h]

theorem checkDataCrc_good (h : crcMatches s = true) : checkDataCrc s = endRecord s := by
  simp [checkDataCrc, h]

/-! ## WriteSector (R331 to R339) -/

theorem drqCheck_late (h : s.fdc.drq = true) :
    drqCheck s = .next (Claims.terminated { s.fdc with lostData := true } s) := if_pos h

theorem drqCheck_inTime (h : s.fdc.drq = false) (hok : Claims.HeadOk s) :
    drqCheck s = .next (Claims.byteWait 1 .writeFiller
      { s.fdc with bytesToWrite := if s.fdc.doubleDensity then 12 else 6 } s) := by
  rw [drqCheck, if_neg (Bool.eq_false_iff.mp h)]
  exact waitBytes_withFdc (s := s) 1 .writeFiller hok

/-- The count after one byte is 0 exactly with the last one. -/
theorem countedOff_eq_zero {n : Nat} (h : 1 ≤ n) : n - 1 = 0 ↔ n = 1 := by omega

/-- A counted byte with the registers `f`, which select no other drive, side or density. -/
theorem writeCounted_withFdc (b : Byte) (hd : f.currentDrive = s.fdc.currentDrive := by rfl)
    (hs : f.sideOneSelected = s.fdc.sideOneSelected := by rfl)
    (hdd : f.doubleDensity = s.fdc.doubleDensity := by rfl) :
    writeCounted b { s with fdc := f } =
      { headWritten b false s with fdc := { f with bytesToWrite := f.bytesToWrite - 1 } } := by
  rw [writeCounted, trackDataIndex_withFdc hd hs hdd, trackWrite_withFdc b false hd hs hdd]

/-- A filler byte, and what follows it (R332). -/
theorem writeFiller_of_headOk (hok : Claims.HeadOk s) (hn : 1 ≤ s.fdc.bytesToWrite) :
    writeFiller s = .next { (
      if s.fdc.bytesToWrite ≠ 1 then
        Claims.byteWait 1 .writeFiller { s.fdc with bytesToWrite := s.fdc.bytesToWrite - 1 } s
      else if s.fdc.doubleDensity then Claims.byteWait 1 .writeSync { s.fdc with bytesToWrite := 3 } s
      else Claims.byteWait 1 .writeDAM { s.fdc with bytesToWrite := 0 } s) with
        drives := (headWritten 0x00#8 false s).drives } := by
  rw [writeFiller, withHead_of_headOk _ hok]
  dsimp only
  rw [writeCounted_withFdc (s := s) (f := s.fdc) 0x00#8]
  dsimp only
  by_cases hlast : s.fdc.bytesToWrite = 1
  · rw [if_pos ((countedOff_eq_zero hn).mpr hlast), if_neg (not_not.mpr hlast)]
    by_cases hdd : s.fdc.doubleDensity = true
    · rw [if_pos hdd, if_pos hdd]
      exact waitBytes_headWritten 1 .writeSync 0x00#8 false hok
    · rw [if_neg hdd, if_neg hdd, hlast]
      exact waitBytes_headWritten 1 .writeDAM 0x00#8 false hok
  · rw [if_neg (mt (countedOff_eq_zero hn).mp hlast), if_pos hlast]
    exact waitBytes_headWritten 1 .writeFiller 0x00#8 false hok

/-- A sync byte, and what follows it (R333). -/
theorem writeSync_of_headOk (hok : Claims.HeadOk s) (hn : 1 ≤ s.fdc.bytesToWrite) :
    writeSync s = .next { Claims.byteWait 1 (if s.fdc.bytesToWrite = 1 then .writeDAM else .writeSync)
      { s.fdc with bytesToWrite := s.fdc.bytesToWrite - 1 } s with
        drives := (headWritten 0xA1#8 false s).drives } := by
  rw [writeSync, withHead_of_headOk _ hok]
  dsimp only
  rw [writeCounted_withFdc (s := s) (f := s.fdc) 0xA1#8]
  by_cases hlast : s.fdc.bytesToWrite = 1
  · rw [if_pos (by exact (countedOff_eq_zero hn).mpr hlast), if_pos hlast]
    exact waitBytes_headWritten 1 .writeDAM 0xA1#8 false hok
  · rw [if_neg (by exact mt (countedOff_eq_zero hn).mp hlast), if_neg hlast]
    exact waitBytes_headWritten 1 .writeSync 0xA1#8 false hok

/-- The data mark, which starts the CRC (R334). -/
theorem writeDAM_of_headOk (hok : Claims.HeadOk s) :
    writeDAM s = .next { Claims.byteWait 1 .writingData
      { s.fdc with
        crc := crcByte (crcPreset s.fdc.doubleDensity) (damByte s), bytesToWrite := s.fdc.sectorLength } s with
          drives := (headWritten (damByte s) false s).drives } := by
  rw [writeDAM, withHead_of_headOk _ hok, startCrc, trackWrite_withFdc (s := s) (damByte s) false]
  exact waitBytes_headWritten 1 .writingData (damByte s) false hok

/-- A data byte of the CPU, and the request for the next one where it is not the last (R336). -/
theorem writeSectorData_of_headOk (hok : Claims.HeadOk s) (hn : 1 ≤ s.fdc.bytesToWrite) :
    writeSectorData s = .next { Claims.byteWait 1
      (if s.fdc.bytesToWrite = 1 then .writeCRCHigh else .writingData)
      { s.fdc with
        lostData := s.fdc.lostData || s.fdc.drq, crc := crcByte s.fdc.crc (takenByte s)
        bytesToWrite := s.fdc.bytesToWrite - 1, drq := decide (s.fdc.bytesToWrite ≠ 1) } s with
          drives := (headWritten (takenByte s) false s).drives } := by
  rw [writeSectorData, withHead_of_headOk _ hok, noteTaken]
  dsimp only
  rw [writeCounted_withFdc (s := s) (takenByte s)]
  by_cases hlast : s.fdc.bytesToWrite = 1
  · rw [if_pos (by exact (countedOff_eq_zero hn).mpr hlast), if_pos hlast, decide_eq_false (not_not.mpr hlast)]
    exact waitBytes_headWritten 1 .writeCRCHigh (takenByte s) false hok
  · rw [if_neg (by exact mt (countedOff_eq_zero hn).mp hlast), if_neg hlast, decide_eq_true hlast]
    exact waitBytes_headWritten 1 .writingData (takenByte s) false hok

/-- The CRC's high byte, split off in the same run (R337). -/
theorem writeCRCHigh_of_headOk (hok : Claims.HeadOk s) :
    writeCRCHigh s = .next { Claims.byteWait 1 .writeCRCLow
      { s.fdc with crcHigh := s.fdc.crc.extractLsb' 8 8, crcLow := s.fdc.crc.extractLsb' 0 8 } s with
        drives := (headWritten (s.fdc.crc.extractLsb' 8 8) false s).drives } := by
  rw [writeCRCHigh, withHead_of_headOk _ hok, splitCrc, trackWrite_withFdc (s := s) _ false]
  exact waitBytes_headWritten 1 .writeCRCLow _ false hok

theorem writeSectorCRCLow_of_headOk (hok : Claims.HeadOk s) :
    writeSectorCRCLow s =
      .next { Claims.byteWait 1 .writeTrailer s.fdc s with drives := (headWritten s.fdc.crcLow false s).drives } := by
  rw [writeSectorCRCLow, withHead_of_headOk _ hok, trackWrite_eq_headWritten]
  exact waitBytes_headWritten (f := s.fdc) 1 .writeTrailer _ false hok

/-- The trailer, and the end of the record after it (R339). -/
theorem writeTrailer_of_headOk (hok : Claims.HeadOk s) :
    writeTrailer s = .next { (
      if s.fdc.multipleRecords then
        Claims.byteWait 1 .seekingIDAM { s.fdc with sectorRegister := s.fdc.sectorRegister + 1#8 } s
      else Claims.terminated s.fdc s) with drives := (headWritten 0xFF#8 false s).drives } := by
  rw [writeTrailer, withHead_of_headOk _ hok, trackWrite_eq_headWritten]
  cases hmulti : s.fdc.multipleRecords with
  | true =>
    rw [endRecord_continues (by exact hmulti), if_pos rfl]
    exact waitBytes_headWritten 1 .seekingIDAM 0xFF#8 false hok
  | false =>
    rw [endRecord_ends (by exact hmulti), if_neg Bool.false_ne_true]
    rfl

end

/-! ## The statements -/

/-- Settles O18: the delay over, every command begins the search its row of the table names. -/
theorem delayEndsInSearch : Obligations.DelayEndsInSearch := by
  intro s ho hok
  simp only [List.mem_cons, List.not_mem_nil, or_false]
  refine ⟨fun hc => ?_, fun hc => ?_⟩
  · obtain hr | hw | ha := hc
    · exact (fdcAdvance_readSector_delay hr ho).trans (startSearch_of_headOk .seekingIDAM hok)
    · exact (fdcAdvance_writeSector_delay hw ho).trans (startSearch_of_headOk .seekingIDAM hok)
    · exact (fdcAdvance_readAddress_delay ha ho).trans (startSearch_of_headOk .seekingIDAM hok)
  · obtain hr | hw := hc
    · exact (fdcAdvance_readTrack_delay hr ho).trans (startSearch_of_headOk .seekingIndexHole hok)
    · exact (fdcAdvance_writeTrack_delay hw ho).trans (startSearch_of_headOk .seekingIndexHole hok)

/-- Settles O23: a mark is looked for first, then the end of the window. -/
theorem damSearch : Obligations.DamSearch := by
  intro s hc ho hok b f
  rw [fdcAdvance_readSector_seekingDAM hc ho, seekingDAM_of_headOk hok]
  refine ⟨fun hb => ?_, fun hb hb' hend => ?_, fun hb hb' hin => ?_⟩
  · rw [seekingDAMByte_mark hb]
    exact waitBytes_withFdc (s := Claims.counted s) 1 .readingData (headOk_counted hok)
  · rw [seekingDAMByte_other hb hb', if_pos (by exact hend)]
    exact waitBytes_withFdc (s := Claims.counted s) 1 .seekingIDAM (headOk_counted hok)
  · rw [seekingDAMByte_other hb hb', if_neg (by exact Nat.not_le.mpr hin)]
    exact waitBytes_withFdc (s := Claims.counted s) 1 .seekingDAM (headOk_counted hok)

/-- Settles O24: the byte is delivered, and the count of the sector decides what is waited for. -/
theorem sectorBytesDelivered : Obligations.SectorBytesDelivered := by
  intro s hc ho hok f
  rw [fdcAdvance_readSector_readingData hc ho, readSectorData_of_headOk hok]
  refine ⟨fun hlast => ?_, fun hmore => ?_⟩
  · rw [afterDataByte_last (by exact hlast)]
    exact waitBytes_withFdc (s := Claims.counted s) 1 .readCRCHigh (headOk_counted hok)
  · rw [afterDataByte_goesOn (by exact hmore)]
    exact waitBytes_withFdc (s := Claims.counted s) 1 .readingData (headOk_counted hok)

/-- Settles O25: the low byte completes the stored CRC, its comparison decides, and then the record is at its end. -/
theorem dataCrcChecked : Obligations.DataCrcChecked := by
  intro s hc hok
  refine ⟨fun ho => (fdcAdvance_readSector_readCRCHigh hc ho).trans (readCRCHigh_of_headOk hok), ?_⟩
  intro ho f
  have hcrc : crcMatches { Claims.counted s with fdc := f } = true ↔
      s.fdc.crcHigh ++ Claims.headByte s = s.fdc.crcCalc := crcMatches_iff _
  rw [fdcAdvance_readSector_readCRCLow hc ho, readCRCLow_of_headOk hok]
  refine ⟨fun hbad => ?_, fun hgood hmulti => ?_, fun hgood hsingle => ?_⟩
  · rw [checkDataCrc_bad (mt hcrc.mp hbad)]
    rfl
  · rw [checkDataCrc_good (hcrc.mpr hgood), endRecord_continues (by exact hmulti)]
    exact waitBytes_withFdc (s := Claims.counted s) 1 .seekingIDAM (headOk_counted hok)
  · rw [checkDataCrc_good (hcrc.mpr hgood), endRecord_ends (by exact hsingle)]
    rfl

/-- Settles O26: both states put their byte under the head and count it off. -/
theorem fillerAndSyncWritten : Obligations.FillerAndSyncWritten := by
  intro s hm hc hok hn
  exact ⟨
    fun ho => ⟨_, headWritten_wroteUnderHead _ _ hm hok,
      (fdcAdvance_writeSector_writeFiller hc ho).trans (writeFiller_of_headOk hok hn)⟩,
    fun ho => ⟨_, headWritten_wroteUnderHead _ _ hm hok,
      (fdcAdvance_writeSector_writeSync hc ho).trans (writeSync_of_headOk hok hn)⟩⟩

/-- Settles O27: the mark is the byte the decode flag asks for. -/
theorem damWritten : Obligations.DamWritten := by
  intro s hm hc ho hok dam
  exact ⟨_, headWritten_wroteUnderHead _ _ hm hok,
    (fdcAdvance_writeSector_writeDAM hc ho).trans (writeDAM_of_headOk hok)⟩

/-- Settles O28: the first byte has come or the command ends; each byte after it is taken, written and counted off. -/
theorem writeSectorTakesBytes : Obligations.WriteSectorTakesBytes := by
  intro s hm hc
  refine ⟨fun ho => ⟨fun hlate => ?_, fun hcame hok => ?_⟩, ?_⟩
  · exact (fdcAdvance_writeSector_drqCheck hc ho).trans (drqCheck_late hlate)
  · exact (fdcAdvance_writeSector_drqCheck hc ho).trans (drqCheck_inTime hcame hok)
  · intro ho hok hn b
    exact ⟨_, headWritten_wroteUnderHead _ _ hm hok,
      (fdcAdvance_writeSector_writingData hc ho).trans (writeSectorData_of_headOk hok hn)⟩

/-- Settles O29: the CRC's two bytes and the trailer go under the head, and the trailer ends the record. -/
theorem crcAndTrailerWritten : Obligations.CrcAndTrailerWritten := by
  intro s hm hc hok
  exact ⟨
    fun ho => ⟨_, headWritten_wroteUnderHead _ _ hm hok,
      (fdcAdvance_writeSector_writeCRCHigh hc ho).trans (writeCRCHigh_of_headOk hok)⟩,
    fun ho => ⟨_, headWritten_wroteUnderHead _ _ hm hok,
      (fdcAdvance_writeSector_writeCRCLow hc ho).trans (writeSectorCRCLow_of_headOk hok)⟩,
    fun ho => ⟨_, headWritten_wroteUnderHead _ _ hm hok,
      (fdcAdvance_writeSector_writeTrailer hc ho).trans (writeTrailer_of_headOk hok)⟩⟩

end Sys2Proof.Machine
end

section
/-! SUPPORT. The states of ReadTrack and WriteTrack from one index position to the next, by what the rules promise of them
(45_fdc_type3.md R371, R372, R381 to R386). -/

namespace Sys2Proof.Machine

section

variable {s : State} {f : Fdc} {b : Byte}

/-! ## The index position (R146, R147) -/

/-- Right after `ResetIndexCount` no index has passed yet, so the rule that follows in the same run goes on (R371, R382). -/
theorem indexesFound_resetIndexCount (s : State) : indexesFound (resetIndexCount s) = 0 := by
  by_contra hfound
  have hpos : 0 < ticksPerRev s.params := by
    refine Nat.pos_of_ne_zero fun hrev => hfound ?_
    have hzero : ticksPerRev (resetIndexCount s).params = 0 := hrev
    rw [indexesFound, hzero, Nat.div_zero, ite_self]
  have hlt := Nat.mod_lt s.tickCount hpos
  have hstart := indexCheckStartTick_resetIndexCount s
  have hpast : (resetIndexCount s).fdc.indexCheckStartTick + 1 * ticksPerRev s.params ≤ s.tickCount :=
    (le_indexesFound_iff (s := resetIndexCount s) hpos le_rfl).mp (Nat.pos_of_ne_zero hfound)
  omega

theorem not_one_le_indexesFound (h : indexesFound s = 0) : ¬ 1 ≤ indexesFound s := by omega

/-! ## The head under registers that select no other drive, side or density (R36, R67) -/

section

variable (hd : f.currentDrive = s.fdc.currentDrive) (hs : f.sideOneSelected = s.fdc.sideOneSelected)
  (hdd : f.doubleDensity = s.fdc.doubleDensity)
include hd hs

theorem boundTrack_withFdc : boundTrack { s with fdc := f } = boundTrack s := by
  simp only [boundTrack, curDrive, hd, hs]

theorem counted_withFdc : Claims.counted { s with fdc := f } = { Claims.counted s with fdc := f } := by
  rw [Claims.counted, boundTrack_withFdc hd hs]
  rfl

include hdd

theorem headOk_withFdc (hok : Claims.HeadOk s) : Claims.HeadOk { s with fdc := f } := by
  rwa [Claims.HeadOk, trackLen_withFdc hd hs hdd, hdd]

theorem headByte_withFdc : Claims.headByte { s with fdc := f } = Claims.headByte s := by
  rw [Claims.headByte, boundTrack_withFdc hd hs, trackDataIndex_withFdc hd hs hdd]
  rfl

theorem byteBefore_withFdc : byteBefore { s with fdc := f } = byteBefore s := by
  simp only [byteBefore, trackByte, boundTrack_withFdc hd hs, trackDataIndex_withFdc hd hs hdd,
    trackLen_withFdc hd hs hdd]

end

/-! ## ReadTrack (R371, R372) -/

theorem readTrackData_ends (h : 1 ≤ indexesFound s) : readTrackData s = .next (Claims.terminated s.fdc s) := if_pos h

/-- A byte is offered, with the registers `f`, which select no other drive, side or density (R372). -/
theorem readTrackData_offers (h : indexesFound { s with fdc := f } = 0) (hok : Claims.HeadOk s)
    (hd : f.currentDrive = s.fdc.currentDrive := by rfl) (hs : f.sideOneSelected = s.fdc.sideOneSelected := by rfl)
    (hdd : f.doubleDensity = s.fdc.doubleDensity := by rfl) :
    readTrackData { s with fdc := f } =
      .next (Claims.byteWait 1 .readingData (Claims.offered (Claims.headByte s) f) (Claims.counted s)) := by
  rw [readTrackData, if_neg (not_one_le_indexesFound h), withHead_of_headOk _ (headOk_withFdc hd hs hdd hok),
    afterTrackRead_eq_counted, trackByte_eq_headByte, headByte_withFdc hd hs hdd, counted_withFdc hd hs]
  exact waitBytes_withFdc (s := Claims.counted s) 1 .readingData (headOk_counted hok) hd hs hdd

theorem readTrackIndexHole_waits (h : indexesFound s = 0) (hok : Claims.HeadOk s) :
    readTrackIndexHole s = .next (Claims.byteWait 1 .seekingIndexHole s.fdc s) := by
  rw [readTrackIndexHole, if_neg (not_one_le_indexesFound h)]
  exact waitBytes_withFdc (s := s) (f := s.fdc) 1 .seekingIndexHole hok

/-- At the index the first byte is offered in the same run (R371). -/
theorem readTrackIndexHole_offers (h : 1 ≤ indexesFound s) (hok : Claims.HeadOk s) :
    readTrackIndexHole s =
      .next (Claims.byteWait 1 .readingData
        (Claims.offered (Claims.headByte s) { s.fdc with indexCheckStartTick := Claims.indexStart s })
        (Claims.counted s)) := by
  rw [readTrackIndexHole, if_pos h]
  exact readTrackData_offers (s := s)
    (f := { s.fdc with indexCheckStartTick := Claims.indexStart s, opStatus := .readingData })
    (indexesFound_resetIndexCount s) hok

/-! ## What `Transform` makes of a byte of the stream (R69, R383, R384) -/

/-- `s` after `Transform(b)` has looked at the byte before the head, which it does for a double-density IDAM only. -/
def lookedBack (b : Byte) (s : State) : State :=
  if s.fdc.doubleDensity && b == 0xFE#8 then Claims.counted s else s

/-- Any byte but 0xF7 is translated by the density (R383, R384). -/
theorem transform_of_ne (hb : b ≠ 0xF7#8) (s : State) :
    transform b s =
      { out := Claims.formatByte s.fdc.doubleDensity b
        mark := b == 0xFE#8 && (!s.fdc.doubleDensity || byteBefore s == 0xA1#8), isCrc := false } := by
  rw [transform, if_neg hb, Claims.formatByte]
  cases s.fdc.doubleDensity with
  | false => simp
  | true =>
    by_cases h5 : b = 0xF5#8
    · simp [h5]
    · by_cases h6 : b = 0xF6#8 <;> simp [h5, h6]

theorem sdMark_iff (b : Byte) : sdMark b = true ↔ b ∈ [0xF8#8, 0xF9#8, 0xFA#8, 0xFB#8, 0xFD#8, 0xFE#8] := by
  simp [sdMark, or_assoc]

/-- The byte goes into the CRC as the density asks for (R383, R384). -/
theorem transformState_of_ne (hb : b ≠ 0xF7#8) (s : State) :
    transformState b s =
      { lookedBack b s with fdc := { s.fdc with crc := Claims.formatCrc s.fdc.doubleDensity b s.fdc.crc } } := by
  rw [transformState, if_neg hb, lookedBack, afterTrackRead_eq_counted, Claims.formatCrc]
  cases hdd : s.fdc.doubleDensity with
  | false =>
    simp only [Bool.false_eq_true, if_false, Bool.false_and, ← sdMark_iff]
    split <;> rfl
  | true =>
    simp only [if_true, Bool.true_and, beq_iff_eq]
    by_cases h5 : b = 0xF5#8
    · subst h5; rfl
    · by_cases h6 : b = 0xF6#8
      · subst h6; rfl
      · rw [if_neg h5, if_neg h6, if_neg h5, if_neg h6]
        split <;> rfl

theorem transform_out_of_ne (hb : b ≠ 0xF7#8) (s : State) :
    (transform b s).out = Claims.formatByte s.fdc.doubleDensity b ∧ (transform b s).isCrc = false := by
  rw [transform_of_ne hb]
  exact ⟨rfl, rfl⟩

/-- On a bound track the look at the byte before the head is the promised one. -/
theorem byteBefore_of_bound (h : (boundTrack s).isSome = true) :
    (byteBefore s == 0xA1#8) = Claims.a1Before s := by
  obtain ⟨tr, htr⟩ := Option.isSome_iff_exists.mp h
  simp only [byteBefore, trackByte, Claims.a1Before, htr]

theorem transform_mark_of_bound (hb : b ≠ 0xF7#8) (h : (boundTrack s).isSome = true) :
    (transform b s).mark = Claims.formatMark b s := by
  rw [transform_of_ne hb, Claims.formatMark, ← byteBefore_of_bound h]

section

variable (hd : f.currentDrive = s.fdc.currentDrive) (hs : f.sideOneSelected = s.fdc.sideOneSelected)
  (hdd : f.doubleDensity = s.fdc.doubleDensity)
include hd hs hdd

theorem transform_withFdc (hb : b ≠ 0xF7#8) : transform b { s with fdc := f } = transform b s := by
  rw [transform_of_ne hb, transform_of_ne hb, byteBefore_withFdc hd hs hdd, hdd]

theorem lookedBack_withFdc (b : Byte) : lookedBack b { s with fdc := f } = { lookedBack b s with fdc := f } := by
  simp only [lookedBack, counted_withFdc hd hs, hdd]
  split <;> rfl

theorem transformState_withFdc (hb : b ≠ 0xF7#8) :
    transformState b { s with fdc := f } =
      { lookedBack b s with fdc := { f with crc := Claims.formatCrc s.fdc.doubleDensity b f.crc } } := by
  rw [transformState_of_ne hb, lookedBack_withFdc hd hs hdd b, ← hdd]

end

/-- A look back takes at most a draw: it leaves the registers and everything a write or a wait depends on. -/
theorem lookedBack_frame (b : Byte) (s : State) : ∃ n, lookedBack b s = { s with draws := n } := by
  unfold lookedBack
  split <;> exact ⟨_, rfl⟩

/-- A media write does not depend on the draws taken. -/
theorem headWritten_withDraws (v : Byte) (m : Bool) (n : Nat) (s : State) :
    (headWritten v m { s with draws := n }).drives = (headWritten v m s).drives := by
  have hidx : trackDataIndex { s with draws := n } = trackDataIndex s := rfl
  simp only [headWritten, hidx, trackWrite, mapCurDrive]
  cases s.fdc.currentDrive <;> rfl

/-- Where no track is bound nothing is written, whatever the mark (R71). -/
theorem wroteUnderHead_of_bound {v : Byte} {m m' : Bool} {ds : Drives} (h : Claims.WroteUnderHead v m s ds)
    (hm : (boundTrack s).isSome = true → m = m') : Claims.WroteUnderHead v m' s ds := by
  obtain ⟨hdrives, hplaces⟩ := h
  refine ⟨hdrives, fun d c sd i => ⟨fun hu => ?_, (hplaces d c sd i).2⟩⟩
  have hthere := (hplaces d c sd i).1 hu
  obtain ⟨-, -, -, hbound, -⟩ := hu
  rwa [← hm hbound]

/-! ## WriteTrack (R381, R382, R385, R386) -/

/-- The registers `f` and the state of the sequencer with which a run of WriteTrack takes a byte of the stream: before the
end of the track, or at the index where it begins, with the CRC preset and the index count set (R381, R382). -/
def TakesByte (s : State) (f : Fdc) : Prop :=
  (s.fdc.opStatus = .writingData ∧ indexesFound s = 0 ∧ f = s.fdc) ∨
    (s.fdc.opStatus = .seekingIndexHole ∧ 1 ≤ indexesFound s ∧
      f = { s.fdc with crc := crcPreset s.fdc.doubleDensity, indexCheckStartTick := Claims.indexStart s })

theorem writeTrackData_ends (h : 1 ≤ indexesFound s) : writeTrackData s = .next (Claims.terminated s.fdc s) := if_pos h

theorem writeTrackData_takes (h : indexesFound s = 0) (hok : Claims.HeadOk s) :
    writeTrackData s = writeTrackByte (takenByte s) (noteTaken s) := by
  rw [writeTrackData, if_neg (not_one_le_indexesFound h), withHead_of_headOk _ hok]

theorem writeTrackIndexHole_waits (h : indexesFound s = 0) (hok : Claims.HeadOk s) :
    writeTrackIndexHole s = .next (Claims.byteWait 1 .seekingIndexHole s.fdc s) := by
  rw [writeTrackIndexHole, if_neg (not_one_le_indexesFound h)]
  exact waitBytes_withFdc (s := s) (f := s.fdc) 1 .seekingIndexHole hok

/-- At the index the first byte is taken in the same run (R382). -/
theorem writeTrackIndexHole_takes (h : 1 ≤ indexesFound s) (hok : Claims.HeadOk s) :
    writeTrackIndexHole s = writeTrackByte (takenByte s) { s with
      fdc.crc := crcPreset s.fdc.doubleDensity, fdc.indexCheckStartTick := Claims.indexStart s
      fdc.opStatus := .writingData, fdc.lostData := s.fdc.lostData || s.fdc.drq } := by
  rw [writeTrackIndexHole, if_pos h]
  exact writeTrackData_takes
    (s := { resetIndexCount s with fdc.crc := crcPreset s.fdc.doubleDensity, fdc.opStatus := .writingData })
    (indexesFound_resetIndexCount s) hok

/-- A run that takes a byte writes it out with the registers it takes it with. -/
theorem fdcAdvance_takesByte (hc : s.fdc.command = .writeTrack) (h : TakesByte s f) (hok : Claims.HeadOk s) :
    fdcAdvance s = writeTrackByte (takenByte s)
      { s with fdc := { f with opStatus := .writingData, lostData := s.fdc.lostData || s.fdc.drq } } := by
  obtain ⟨ho, hnone, rfl⟩ | ⟨ho, hindex, rfl⟩ := h
  · rw [fdcAdvance_writeTrack_writingData hc ho, writeTrackData_takes hnone hok, noteTaken, ← ho]
  · exact (fdcAdvance_writeTrack_seekingIndexHole hc ho).trans (writeTrackIndexHole_takes hindex hok)

/-- These registers select no other drive, side or density. -/
theorem TakesByte.selection (h : TakesByte s f) :
    f.currentDrive = s.fdc.currentDrive ∧ f.sideOneSelected = s.fdc.sideOneSelected ∧
      f.doubleDensity = s.fdc.doubleDensity := by
  obtain ⟨-, -, rfl⟩ | ⟨-, -, rfl⟩ := h <;> exact ⟨rfl, rfl, rfl⟩

/-- A byte other than 0xF7, with the registers `f`, which select no other drive, side or density: its translation goes under
the head and the next byte is asked for (R381, R383, R384). -/
theorem writeTrackByte_translates (hb : b ≠ 0xF7#8) (hok : Claims.HeadOk s)
    (hd : f.currentDrive = s.fdc.currentDrive) (hs : f.sideOneSelected = s.fdc.sideOneSelected)
    (hdd : f.doubleDensity = s.fdc.doubleDensity) :
    writeTrackByte b { s with fdc := f } = .next { Claims.byteWait 1 .writingData
      { f with crc := Claims.formatCrc s.fdc.doubleDensity b f.crc, drq := true } (lookedBack b s) with
        drives := (headWritten (Claims.formatByte s.fdc.doubleDensity b) (transform b s).mark s).drives } := by
  obtain ⟨hout, hcrc⟩ := transform_out_of_ne hb s
  obtain ⟨n, hn⟩ := lookedBack_frame b s
  have hwrite := trackWrite_withFdc (s := { s with draws := n })
    (f := { f with crc := Claims.formatCrc s.fdc.doubleDensity b f.crc })
    (Claims.formatByte s.fdc.doubleDensity b) (transform b s).mark hd hs hdd
  rw [writeTrackByte, transform_withFdc hd hs hdd hb, hout, hcrc, transformState_withFdc hd hs hdd hb,
    trackDataIndex_withFdc hd hs hdd, hn, ← headWritten_withDraws _ _ n]
  refine (congrArg (fun u : State => waitBytes 1 .writingData { u with fdc.drq := true }) hwrite).trans ?_
  exact waitBytes_headWritten (s := { s with draws := n })
    (f := { f with crc := Claims.formatCrc s.fdc.doubleDensity b f.crc, drq := true }) 1 .writingData _ _ hok hd hs hdd

/-- 0xF7 puts the CRC's high byte under the head and asks for nothing (R385; D25). -/
theorem writeTrackByte_crc (hb : b = 0xF7#8) (hok : Claims.HeadOk s) (hd : f.currentDrive = s.fdc.currentDrive)
    (hs : f.sideOneSelected = s.fdc.sideOneSelected) (hdd : f.doubleDensity = s.fdc.doubleDensity) :
    writeTrackByte b { s with fdc := f } = .next { Claims.byteWait 1 .writeCRCLow
      { f with crcHigh := f.crc.extractLsb' 8 8, crcLow := f.crc.extractLsb' 0 8, drq := false } s with
        drives := (headWritten (f.crc.extractLsb' 8 8) false s).drives } := by
  have hwrite := trackWrite_withFdc (s := s)
    (f := { f with crcHigh := f.crc.extractLsb' 8 8, crcLow := f.crc.extractLsb' 0 8 })
    (f.crc.extractLsb' 8 8) false hd hs hdd
  rw [hb, writeTrackByte, trackDataIndex_withFdc hd hs hdd]
  refine (congrArg (fun u : State => waitBytes 1 .writeCRCLow { u with fdc.drq := false }) hwrite).trans ?_
  exact waitBytes_headWritten (s := s)
    (f := { f with crcHigh := f.crc.extractLsb' 8 8, crcLow := f.crc.extractLsb' 0 8, drq := false }) 1 .writeCRCLow
    (f.crc.extractLsb' 8 8) false hok hd hs hdd

theorem writeTrackCRCLow_ends (h : 1 ≤ indexesFound s) :
    writeTrackCRCLow s = .next (Claims.terminated s.fdc s) := if_pos h

/-- The CRC's low byte, and the request for the next byte of the stream (R386). -/
theorem writeTrackCRCLow_writes (h : indexesFound s = 0) (hok : Claims.HeadOk s) :
    writeTrackCRCLow s = .next { Claims.byteWait 1 .writingData { s.fdc with drq := true } s with
      drives := (headWritten s.fdc.crcLow false s).drives } := by
  rw [writeTrackCRCLow, if_neg (not_one_le_indexesFound h), withHead_of_headOk _ hok, trackWrite_eq_headWritten]
  exact waitBytes_headWritten (s := s) 1 .writingData _ false hok

end

/-! ## The statements -/

/-- Settles O30: the index decides in both states, and at the index the byte under the head is offered in the same run. -/
theorem readTrackStreams : Obligations.ReadTrackStreams := by
  intro s hc
  refine ⟨fun ho hok => ?_, fun ho => ?_⟩
  · rw [fdcAdvance_readTrack_seekingIndexHole hc ho]
    exact ⟨(readTrackIndexHole_waits · hok), (readTrackIndexHole_offers · hok)⟩
  · rw [fdcAdvance_readTrack_readingData hc ho]
    exact ⟨readTrackData_ends, fun hnone hok => readTrackData_offers (f := s.fdc) hnone hok⟩

/-- Settles O31: the index decides in every state; a byte taken is 0xF7, which begins the CRC, or is translated. -/
theorem writeTrackTranslates : Obligations.WriteTrackTranslates := by
  intro s hm hc
  refine ⟨fun ho hnone hok => ?_, fun ho hindex => ?_, ?_, fun ho => ⟨fun hindex => ?_, ?_⟩⟩
  · exact (fdcAdvance_writeTrack_seekingIndexHole hc ho).trans (writeTrackIndexHole_waits hnone hok)
  · exact (fdcAdvance_writeTrack_writingData hc ho).trans (writeTrackData_ends hindex)
  · intro f htakes hok b lost
    obtain ⟨hd, hs, hdd⟩ := TakesByte.selection htakes
    rw [fdcAdvance_takesByte hc htakes hok]
    refine ⟨fun hb => ⟨_, ?_, writeTrackByte_translates hb hok hd hs hdd⟩, fun hb => ?_⟩
    · exact wroteUnderHead_of_bound (headWritten_wroteUnderHead _ _ hm hok) (transform_mark_of_bound hb)
    · exact ⟨_, headWritten_wroteUnderHead _ _ hm hok, writeTrackByte_crc hb hok hd hs hdd⟩
  · exact (fdcAdvance_writeTrack_writeCRCLow hc ho).trans (writeTrackCRCLow_ends hindex)
  · intro hnone hok
    exact ⟨_, headWritten_wroteUnderHead _ _ hm hok,
      (fdcAdvance_writeTrack_writeCRCLow hc ho).trans (writeTrackCRCLow_writes hnone hok)⟩

end Sys2Proof.Machine
end

section
/-! SUPPORT. The Type IV commands of an enabled FDC: the abort common to them by what the rules promise of it, and the write
of each kind of byte (46_fdc_type4.md R401 to R404). Neither looks at `busy`. -/

namespace Sys2Proof.Machine

/-- `s` after a Type IV byte, before anything is latched: the sequencer idle, the command request inactive (R401). -/
def commandDropped (v : Byte) (c : Command) (s : State) : State :=
  { s with
    fdc := Claims.aborted v c s.fdc
    sched := { s.sched with command := { s.sched.command with active := false } } }

section

variable {s : State} (v : Byte) (c : Command)

/-- The abort and the two flags that RESET clears after it (R401, R402). -/
theorem abortCommand_flags_cleared :
    { abortCommand v c s with fdc.busy := false, fdc.drq := false } = commandDropped v c s := rfl

/-- `DoNMI` after the abort clears the same two flags and latches `FdcNmi` (R403, R442). -/
theorem doNmi_abortCommand :
    doNmi (abortCommand v c s) = { commandDropped v c s with latches := { s.latches with fdcNmi := true } } := rfl

theorem writeReset_of_enabled (h : s.fdc.enabled = true) : writeReset v s = .next (commandDropped v .reset s) := by
  rw [writeReset, h, Bool.not_true, if_neg Bool.false_ne_true, abortCommand_flags_cleared]

theorem writeForceInterrupt_of_enabled (h : s.fdc.enabled = true) :
    writeForceInterrupt v c s =
      .next { commandDropped v c s with latches := { s.latches with fdcNmi := true } } := by
  rw [writeForceInterrupt, h, Bool.not_true, if_neg Bool.false_ne_true, doNmi_abortCommand]

end

/-- Settles O13: 0xD8 is the write of a ForceInterrupt byte, which aborts and latches at once. -/
theorem forceInterruptImmediateAborts : Obligations.ForceInterruptImmediateAborts := fun _ h =>
  writeForceInterrupt_of_enabled 0xD8#8 .forceInterruptImmediate h

/-- Settles O14: the six rows write a ForceInterrupt byte each, with their own bits; RESET aborts without the latch. -/
theorem forceInterruptAndResetAbort : Obligations.ForceInterruptAndResetAbort := by
  intro s x xx h abort
  have forced (v : Byte) : writeForceInterrupt v .forceInterrupt s = abort v :=
    writeForceInterrupt_of_enabled v .forceInterrupt h
  exact ⟨forced 0xD1#8, forced (0b1101001#7 ++ BitVec.ofBool x), forced (0b110101#6 ++ xx), forced 0xD9#8,
    forced (0b1101101#7 ++ BitVec.ofBool x), forced (0b110111#6 ++ xx), writeReset_of_enabled 0xD0#8 h⟩

end Sys2Proof.Machine
end

section
/-! SUPPORT. State `NMI`, which ends every command (60_exceptions.md R442, R443). -/

namespace Sys2Proof.Machine

variable {s : State}

/-- The row of `FdcAdvance` that comes before the command is looked at (42_fdc_ports_dispatch.md R241). -/
theorem fdcAdvance_nmi (ho : s.fdc.opStatus = .nmi) : fdcAdvance s = .next (nmiState s) := by
  rw [fdcAdvance, ho]

theorem nmiState_eq (s : State) :
    nmiState s =
      { s with
        fdc := { s.fdc with opStatus := .opDone, busy := false, drq := false }
        latches := { s.latches with fdcNmi := true } } := rfl

/-- Settles O16: the dispatch reaches state `NMI` whatever the command is. -/
theorem nmiStateCompletes : Obligations.NmiStateCompletes := fun s ho => by
  rw [fdcAdvance_nmi ho, nmiState_eq]

end Sys2Proof.Machine
end

section
/-! SUPPORT. The CRC generator (47_crc.md): it is linear, so a byte step is an equation without the eight shifts. -/

namespace Sys2Proof.Machine

/-! ## The shift register is linear over exclusive or -/

theorem crcShift_of_top_clear {c : Crc16} (h : c.getLsbD 15 = false) : crcShift c = c <<< 1 := by
  rw [crcShift, h, if_neg Bool.false_ne_true]

theorem crcShift_of_top_set {c : Crc16} (h : c.getLsbD 15 = true) : crcShift c = (c <<< 1) ^^^ 0x1021#16 := by
  rw [crcShift, h, if_pos rfl]

theorem crcShift_xor (c d : Crc16) : crcShift (c ^^^ d) = crcShift c ^^^ crcShift d := by
  have top : (c ^^^ d).getLsbD 15 = (c.getLsbD 15 ^^ d.getLsbD 15) := BitVec.getLsbD_xor
  have shifted : (c ^^^ d) <<< 1 = (c <<< 1) ^^^ (d <<< 1) := BitVec.shiftLeft_xor_distrib ..
  cases hc : c.getLsbD 15 <;> cases hd : d.getLsbD 15 <;> rw [hc, hd] at top
  · rw [crcShift_of_top_clear top, crcShift_of_top_clear hc, crcShift_of_top_clear hd, shifted]
  · rw [crcShift_of_top_set top, crcShift_of_top_clear hc, crcShift_of_top_set hd, shifted, BitVec.xor_assoc]
  · rw [crcShift_of_top_set top, crcShift_of_top_set hc, crcShift_of_top_clear hd, shifted]
    ac_rfl
  · rw [crcShift_of_top_clear top, crcShift_of_top_set hc, crcShift_of_top_set hd, shifted]
    grind

theorem crcShifts_xor (n : Nat) (c d : Crc16) : crcShifts n (c ^^^ d) = crcShifts n c ^^^ crcShifts n d := by
  induction n generalizing c d with
  | zero => rfl
  | succ n ih => rw [crcShifts, crcShift_xor, ih, crcShifts, crcShifts]

/-- While only clear bits leave the register the polynomial is never applied. -/
theorem crcShifts_of_top_clear {n : Nat} {c : Crc16} (hn : n ≤ 16) (h : ∀ i, 16 - n ≤ i → c.getLsbD i = false) :
    crcShifts n c = c <<< n := by
  induction n generalizing c with
  | zero => rw [crcShifts, BitVec.shiftLeft_zero]
  | succ n ih =>
    have next_clear (i : Nat) (hi : 16 - n ≤ i) : (c <<< 1).getLsbD i = false := by
      rw [BitVec.getLsbD_shiftLeft, h (i - 1) (by omega), Bool.and_false]
    rw [crcShifts, crcShift_of_top_clear (h 15 (by omega)), ih (by omega) next_clear, ← BitVec.shiftLeft_add,
      Nat.add_comm]

/-! ## A byte step in closed form -/

/-- What a byte shifted out at the top of the register leaves behind: the byte times the polynomial of decision D44. -/
def byteRemainder (x : Byte) : Crc16 :=
  let y : Crc16 := (x ^^^ (x >>> 4)).setWidth 16
  (y <<< 12) ^^^ (y <<< 5) ^^^ y

/-- The tie of `byteRemainder` to the generator: it is `CrcByte(0, x)`. -/
theorem crcShifts_highByte : ∀ x : Byte, crcShifts 8 (x.setWidth 16 <<< 8) = byteRemainder x := by decide

/-- The low byte of the register reaches the top in eight shifts, none of which sets the polynomial off. -/
theorem crcShifts_lowByte (c : Crc16) : crcShifts 8 ((c.extractLsb' 0 8).setWidth 16) = c <<< 8 := by
  have top_clear (i : Nat) (hi : 8 ≤ i) : ((c.extractLsb' 0 8).setWidth 16).getLsbD i = false := by
    rw [BitVec.getLsbD_setWidth, BitVec.getLsbD_of_ge _ _ hi, Bool.and_false]
  rw [crcShifts_of_top_clear (by decide) top_clear]
  refine BitVec.eq_of_getLsbD_eq fun i hi => ?_
  by_cases h : i < 8
  · simp [h, hi]
  · simp [h, hi, show i - 8 < 8 by omega, show i - 8 < 16 by omega]

/-- The byte enters the register at its high byte. -/
theorem byteEntered_eq (c : Crc16) (b : Byte) :
    c ^^^ (b.setWidth 16 <<< 8) =
      (c.extractLsb' 0 8).setWidth 16 ^^^ ((c.extractLsb' 8 8 ^^^ b).setWidth 16 <<< 8) := by
  refine BitVec.eq_of_getLsbD_eq fun i hi => ?_
  by_cases h : i < 8
  · simp [h, hi]
  · simp [h, hi, show i - 8 < 8 by omega, show 8 + (i - 8) = i by omega]

/-- `CrcByte` without its shifts (R421). -/
theorem crcByte_eq (c : Crc16) (b : Byte) : crcByte c b = (c <<< 8) ^^^ byteRemainder (c.extractLsb' 8 8 ^^^ b) := by
  rw [crcByte, byteEntered_eq, crcShifts_xor, crcShifts_lowByte, crcShifts_highByte]

/-! ## `CrcBytes` and its presets -/

@[simp] theorem crcBytes_nil (c : Crc16) : crcBytes c [] = c := rfl

@[simp] theorem crcBytes_cons (c : Crc16) (b : Byte) (bs : List Byte) :
    crcBytes c (b :: bs) = crcBytes (crcByte c b) bs := rfl

theorem crcBytes_append (c : Crc16) (xs ys : List Byte) : crcBytes c (xs ++ ys) = crcBytes (crcBytes c xs) ys :=
  List.foldl_append

theorem crcPreset_double : crcPreset true = 0xCDB4#16 := rfl

theorem crcPreset_single : crcPreset false = 0xFFFF#16 := rfl

/-! ## A field followed by its own CRC -/

/-- The high byte of the register cancels itself and the low byte moves up. -/
theorem crcByte_highByte (c : Crc16) : crcByte c (c.extractLsb' 8 8) = c <<< 8 := by
  rw [crcByte_eq, BitVec.xor_self, show byteRemainder 0#8 = 0#16 from rfl, BitVec.xor_zero]

theorem highByte_shiftLeft (c : Crc16) : (c <<< 8).extractLsb' 8 8 = c.extractLsb' 0 8 := by
  refine BitVec.eq_of_getLsbD_eq fun i hi => ?_
  rw [BitVec.getLsbD_extractLsb', BitVec.getLsbD_shiftLeft, BitVec.getLsbD_extractLsb']
  simp [show 8 + i < 16 by omega]

/-- The residue of a stored CRC, high byte first (R425). -/
theorem crcBytes_own (c : Crc16) : crcBytes c [c.extractLsb' 8 8, c.extractLsb' 0 8] = 0x0000#16 := by
  rw [crcBytes_cons, crcByte_highByte, crcBytes_cons, ← highByte_shiftLeft, crcByte_highByte, crcBytes_nil,
    ← BitVec.shiftLeft_add, BitVec.shiftLeft_eq_zero (by decide)]

/-- Settles O52: the own-CRC law by `crcBytes_own`, and the values of R421, R424 and R425 by running the closed form. -/
theorem ownCrcGivesZero : Obligations.OwnCrcGivesZero := by
  refine ⟨fun c field => ?ownCrc, ?singleSteps, ?presets, ?table, ?otherHeader⟩
  case ownCrc => exact (crcBytes_append c field _).trans (crcBytes_own _)
  case singleSteps => simp [crcByte_eq, byteRemainder]
  case presets => simp [crcByte_eq, byteRemainder, crcPreset_double, crcPreset_single]
  case table => simp [crcByte_eq, byteRemainder, crcPreset_double, crcPreset_single]
  case otherHeader => simp [crcByte_eq, byteRemainder, crcPreset_single]

end Sys2Proof.Machine
end
